-- ==== Sys2Proof/Word.lean ====
section
/-! DEFINITION. Word.lean: the word types of the YM2612 register interpreter, and the counts that spec/00_scope.md
rule R5 fixes: 6 channels, 4 operators each, 2 ports of 256 byte-wide addresses. -/

namespace Sys2Proof

/-- A data byte `v` (R5: "A data byte is 8 bits wide"). -/
abbrev Byte := BitVec 8

/-- A register address `a` of one port, 0x00 to 0xFF (R50). -/
abbrev Addr := BitVec 8

/-- The 9-bit selector `sel = p : a` (R70). -/
abbrev Selector := BitVec 9

/-- A write transaction as the block takes it: the 17 bits `p : a : v` (R70). -/
abbrev Transaction := BitVec 17

/-- The port `p`, 0 or 1 (R5, R50). -/
abbrev Port := Fin 2

/-- A channel number `c`, 0 to 5 (R26). -/
abbrev ChanIx := Fin 6

/-- An operator number `o` inside its channel, 0 to 3 (R29). -/
abbrev OpIx := Fin 4

/-- The operator slot of an operator-register address, `a[3:2]` (R71). -/
abbrev Slot := Fin 4

/-- A channel offset that names a channel of its port: `a[1:0]` in 0 to 2 (R71: "The value 3 names no channel"). -/
abbrev Offset := Fin 3

end Sys2Proof
end

