-- ==== Sys2Proof/Config.lean ====
section
/-! DEFINITION. Config.lean: the parameters the source leaves open (spec/00_scope.md rule R6).

The spec asks that claims which depend on an open parameter quantify over it (spec/92_eei_decisions.md D5, D10, D12,
D17). So the parameters are plain data that an instance is constructed with: State holds them, no step writes them, and a
statement about every state is a statement about every value of them. Their defaults stand in Machine/Params.lean. The
fifth parameter, RESET_VALUE, is the argument of State.construct in Machine/State.lean. -/

namespace Sys2Proof

/-- The names of the operator field set (spec/10_state.md rule R32): every operator field but the constant index. -/
inductive OperatorField where
  | dt | mul | tl | ks | ar | am | d1r | d2r | d1l | rr | fnumLo | fnumHi | block | enabled
deriving DecidableEq, Repr

/-- The open parameters of one instance of the block (R6). -/
structure Params where
  /-- `OP_ADDR_MAP`: from the slot `a[3:2]` of an operator-register address to the operator written (R73, D5). -/
  opAddrMap : Vector OpIx 4
  /-- `OP_FREQ_MAP`: from the offset `a[1:0]` of 0xA8-0xAA and 0xAC-0xAE to the operator written (R81, D12). -/
  opFreqMap : Vector OpIx 3
  /-- `INVALID_MODE_UPDATES_TIMER_BITS` (R104, D10). -/
  invalidModeUpdatesTimerBits : Bool
  /-- `OPERATOR_EQ_FIELDS`: the operator fields that operator snapshot equality compares (R196, D17). -/
  operatorEqFields : List OperatorField
deriving DecidableEq, Repr

/-- The operator an operator-register slot names: `OP_ADDR_MAP(slot)` (R73). -/
def Params.operatorOfSlot (pm : Params) (slot : Slot) : OpIx := pm.opAddrMap[slot.val]

/-- The operator an operator-frequency address names: `OP_FREQ_MAP(co)` (R81). -/
def Params.operatorOfFreq (pm : Params) (co : Offset) : OpIx := pm.opFreqMap[co.val]

/-- R6: `OP_ADDR_MAP` is a bijection onto the four operators, and `OP_FREQ_MAP` one onto operators 1 to 3. -/
abbrev Params.WellFormed (pm : Params) : Prop :=
  (∀ k l : Slot, pm.operatorOfSlot k = pm.operatorOfSlot l → k = l) ∧
  (∀ k l : Offset, pm.operatorOfFreq k = pm.operatorOfFreq l → k = l) ∧
  (∀ k : Offset, pm.operatorOfFreq k ≠ 0)

end Sys2Proof
end

