-- ==== Sys2Proof/Machine/Fields.lean ====
section
/-! DEFINITION. Machine/Fields.lean: the records the state is made of (spec/10_state.md), and the snapshots copied from
them (spec/43_queries.md). A one-bit field is a Bool (log entry 14); a wider field is a bit vector of the width the spec
gives it. -/

namespace Sys2Proof.Machine

/-- Six like things, one for each channel, given by channel number (R26). -/
def perChannel {α : Type} (f : ChanIx → α) : Vector α 6 := #v[f 0, f 1, f 2, f 3, f 4, f 5]

/-- Four like things, one for each operator, given by operator number (R29). -/
def perOperator {α : Type} (f : OpIx → α) : Vector α 4 := #v[f 0, f 1, f 2, f 3]

/-- The global fields `G` (R22). -/
structure Globals where
  lfoEnable : Bool
  lfoFreq : BitVec 3
  timerB : BitVec 8
  loadA : Bool
  loadB : Bool
  enableA : Bool
  enableB : Bool
  resetA : Bool
  resetB : Bool
  /-- `channel_3_6_special_mode`: one bit for channels 2 and 5 together (R23). -/
  special : Bool
  dacEnable : Bool
deriving DecidableEq, Repr

/-- The fields of one channel, `CH[c]` (R26). -/
structure Channel where
  /-- The channel's own number, a constant (R27). -/
  index : BitVec 3
  fnumLo : BitVec 8
  fnumHi : BitVec 3
  block : BitVec 3
  alg : BitVec 3
  fb : BitVec 3
  left : Bool
  right : Bool
  ams : BitVec 2
  fms : BitVec 3
deriving DecidableEq, Repr

/-- The fields of one operator, `OP[c][o]` (R30). -/
structure Operator where
  /-- The operator's own number, a constant (R30, D29). -/
  index : BitVec 2
  dt : BitVec 3
  mul : BitVec 4
  tl : BitVec 7
  ks : BitVec 2
  ar : BitVec 5
  am : Bool
  d1r : BitVec 5
  d2r : BitVec 5
  d1l : BitVec 4
  rr : BitVec 4
  fnumLo : BitVec 8
  fnumHi : BitVec 3
  block : BitVec 3
  enabled : Bool
deriving DecidableEq, Repr

/-- `OperatorSnapshot(c, o)`: a copy of the index and of the 14 fields of one operator (R193). -/
abbrev OperatorSnapshot := Operator

/-- `ChannelSnapshot(c)`: a copy of every channel field and of the four operators (R192). -/
structure ChannelSnapshot extends Channel where
  ops : Vector OperatorSnapshot 4
deriving DecidableEq, Repr

/-- R192: the snapshot of a channel and its operators, a value of its own (R194). -/
def snapshotOf (ch : Channel) (ops : Vector Operator 4) : ChannelSnapshot :=
  { toChannel := ch, ops := ops }

/-- R28: the 11-bit frequency number a reader may form, `fnum_hi : fnum_lo`. No rule of the block uses it. -/
def Channel.fnum (ch : Channel) : BitVec 11 := ch.fnumHi ++ ch.fnumLo

/-- The fault codes of R214. -/
inductive FaultCode where
  /-- A query with a channel index `i >= 6` (R190, R191). -/
  | channelIndexOutOfBounds
  /-- An operator query with `i < 6` and an operator index `j >= 4` (R191). -/
  | operatorIndexOutOfBounds
deriving DecidableEq, Repr

/-- The numbers of R214. -/
def FaultCode.number : FaultCode → Nat
  | .channelIndexOutOfBounds => 1
  | .operatorIndexOutOfBounds => 2

/-- The diagnostic codes of R211. -/
inductive DiagCode where
  /-- A write to a selector no register class names (R86). -/
  | unrecognisedRegister
  /-- A write to 0x90-0x9E (R142). -/
  | unmodelledRegister
  /-- A key-on write whose channel code is 0b011 or 0b111 (R106). -/
  | invalidKeyChannel
  /-- A mode write whose pattern is 0b10 or 0b11 (R104). -/
  | invalidModePattern
deriving DecidableEq, Repr

/-- The numbers of R211. -/
def DiagCode.number : DiagCode → Nat
  | .unrecognisedRegister => 1
  | .unmodelledRegister => 2
  | .invalidKeyChannel => 3
  | .invalidModePattern => 4

/-- One event `(code, p, a, v)` of the diagnostic output (R35). -/
structure DiagEvent where
  code : DiagCode
  port : Port
  addr : Addr
  data : Byte
deriving DecidableEq, Repr

/-- One operation the host presents to the block's ports (R55, R58, R190, R191; D2). -/
inductive HostOp where
  /-- The write port: a transaction `p : a : v` (R55, R70). -/
  | write (t : Transaction)
  /-- The channel query port: `channel(i)`, with a natural number (R190, D27). -/
  | channel (i : Nat)
  /-- The operator query port: `channel(i).operator(j)` (R191). -/
  | operator (i j : Nat)
  /-- The raw read port (R58). -/
  | rawRead (p : Port) (a : Addr)
deriving DecidableEq, Repr

/-- What a read port returns to the host (R58, R190, R191). -/
inductive Answer where
  | channel (snap : ChannelSnapshot)
  | operator (snap : OperatorSnapshot)
  | raw (v : Byte)
deriving DecidableEq, Repr

end Sys2Proof.Machine
end

