-- ==== Sys2Proof/Syntax.lean ====
section
/-! DEFINITION. Syntax.lean: the instructions. An instruction of this block is one register write (spec/30_encoding.md
§1); there is one constructor per register class, that is per row of spec/opcode_table.json, in the table's order.

A constructor carries what its selector leaves open (the port, the operator slot, the channel offset, the low address
bits) and the WHOLE data byte: bits that no field takes are ignored by the decoded effect and still reach the raw map
(R74). Which channel or operator the write reaches is not part of the syntax: it depends on the parameters and on
`G.special`, and Machine/Operands.lean says it. -/

namespace Sys2Proof

/-- One register write, by register class. -/
inductive Instr where
  /-- `WR_LFO`, port 0 address 0x22 (R100). -/
  | wrLfo (v : Byte)
  /-- `WR_TIMER_B`, port 0 address 0x26 (R102). -/
  | wrTimerB (v : Byte)
  /-- `WR_MODE`, port 0 address 0x27 (R104). -/
  | wrMode (v : Byte)
  /-- `WR_KEY`, port 0 address 0x28 (R106). -/
  | wrKey (v : Byte)
  /-- `WR_DAC_DATA`, port 0 address 0x2A (R109). -/
  | wrDacData (v : Byte)
  /-- `WR_DAC_EN`, port 0 address 0x2B (R110). -/
  | wrDacEn (v : Byte)
  /-- `WR_DT_MUL`, group 0x3 (R130). -/
  | wrDtMul (p : Port) (slot : Slot) (co : Offset) (v : Byte)
  /-- `WR_TL`, group 0x4 (R132). -/
  | wrTl (p : Port) (slot : Slot) (co : Offset) (v : Byte)
  /-- `WR_KS_AR`, group 0x5 (R134). -/
  | wrKsAr (p : Port) (slot : Slot) (co : Offset) (v : Byte)
  /-- `WR_AM_D1R`, group 0x6 (R136). -/
  | wrAmD1r (p : Port) (slot : Slot) (co : Offset) (v : Byte)
  /-- `WR_D2R`, group 0x7 (R138). -/
  | wrD2r (p : Port) (slot : Slot) (co : Offset) (v : Byte)
  /-- `WR_D1L_RR`, group 0x8 (R140). -/
  | wrD1lRr (p : Port) (slot : Slot) (co : Offset) (v : Byte)
  /-- `WR_UNDOC_9X`, addresses 0x90 to 0x9E: `low` is `a[3:0]`, 0 to 14 (R142). -/
  | wrUndoc9x (p : Port) (low : Fin 15) (v : Byte)
  /-- `WR_FNUM_LO`, addresses 0xA0 to 0xA2 (R160). -/
  | wrFnumLo (p : Port) (co : Offset) (v : Byte)
  /-- `WR_FNUM_HI`, addresses 0xA4 to 0xA6 (R162). -/
  | wrFnumHi (p : Port) (co : Offset) (v : Byte)
  /-- `WR_OPFNUM_LO`, addresses 0xA8 to 0xAA (R164). -/
  | wrOpFnumLo (p : Port) (co : Offset) (v : Byte)
  /-- `WR_OPFNUM_HI`, addresses 0xAC to 0xAE (R166). -/
  | wrOpFnumHi (p : Port) (co : Offset) (v : Byte)
  /-- `WR_FB_ALG`, addresses 0xB0 to 0xB2 (R170). -/
  | wrFbAlg (p : Port) (co : Offset) (v : Byte)
  /-- `WR_LR_AMS_FMS`, addresses 0xB4 to 0xB6 (R172). -/
  | wrLrAmsFms (p : Port) (co : Offset) (v : Byte)
  /-- `UNRECOGNISED`: every other selector, logged and otherwise ignored (R86). -/
  | unrecognised (p : Port) (a : Addr) (v : Byte)
deriving DecidableEq, Repr

/-- The mnemonic of the instruction's row in spec/opcode_table.json. -/
def Instr.mnemonic : Instr → String
  | .wrLfo _ => "WR_LFO"
  | .wrTimerB _ => "WR_TIMER_B"
  | .wrMode _ => "WR_MODE"
  | .wrKey _ => "WR_KEY"
  | .wrDacData _ => "WR_DAC_DATA"
  | .wrDacEn _ => "WR_DAC_EN"
  | .wrDtMul _ _ _ _ => "WR_DT_MUL"
  | .wrTl _ _ _ _ => "WR_TL"
  | .wrKsAr _ _ _ _ => "WR_KS_AR"
  | .wrAmD1r _ _ _ _ => "WR_AM_D1R"
  | .wrD2r _ _ _ _ => "WR_D2R"
  | .wrD1lRr _ _ _ _ => "WR_D1L_RR"
  | .wrUndoc9x _ _ _ => "WR_UNDOC_9X"
  | .wrFnumLo _ _ _ => "WR_FNUM_LO"
  | .wrFnumHi _ _ _ => "WR_FNUM_HI"
  | .wrOpFnumLo _ _ _ => "WR_OPFNUM_LO"
  | .wrOpFnumHi _ _ _ => "WR_OPFNUM_HI"
  | .wrFbAlg _ _ _ => "WR_FB_ALG"
  | .wrLrAmsFms _ _ _ => "WR_LR_AMS_FMS"
  | .unrecognised _ _ _ => "UNRECOGNISED"

end Sys2Proof
end

