-- ==== Sys2Proof/WellFormed.lean ====
section
/-! DEFINITION. WellFormed.lean: which instructions are encodable. Every operand range of the table is carried by a
type (a port is 0 or 1, an offset 0 to 2, an undocumented low nibble 0 to 14), so the one check left is that an
`unrecognised` write names a selector of R86's list: an `unrecognised` at another selector is a term no decoder gives. -/

namespace Sys2Proof

/-- The selectors that R86 lists for port 0 only. -/
def unrecognisedOnPort0 (a : Nat) : Bool :=
  a ≤ 0x21 || a == 0x23 || a == 0x24 || a == 0x25 || a == 0x29 || (0x2C ≤ a && a ≤ 0x2F)

/-- The selectors that R86 lists for port 1 only. -/
def unrecognisedOnPort1 (a : Nat) : Bool :=
  a ≤ 0x2F

/-- The addresses that R86 lists for both ports: channel offset 3 in groups 0x3 to 0x8, then 0x9F, the holes of group
0xA, 0xB3, and everything from 0xB7 on. -/
def unrecognisedOnBoth (a : Nat) : Bool :=
  (0x30 ≤ a && a ≤ 0x8F && a % 4 == 3) || a == 0x9F
    || a == 0xA3 || a == 0xA7 || a == 0xAB || a == 0xAF || a == 0xB3 || 0xB7 ≤ a

/-- R86: the selector `(p, a)` is in the list of unrecognised selectors. -/
def unrecognisedSelector (p : Port) (a : Addr) : Bool :=
  (if p = 0 then unrecognisedOnPort0 a.toNat else unrecognisedOnPort1 a.toNat) || unrecognisedOnBoth a.toNat

/-- An instruction is well-formed when some transaction stands for it. -/
def Instr.wellFormed : Instr → Bool
  | .unrecognised p a _ => unrecognisedSelector p a
  | .wrLfo _ | .wrTimerB _ | .wrMode _ | .wrKey _ | .wrDacData _ | .wrDacEn _
  | .wrDtMul _ _ _ _ | .wrTl _ _ _ _ | .wrKsAr _ _ _ _ | .wrAmD1r _ _ _ _ | .wrD2r _ _ _ _ | .wrD1lRr _ _ _ _
  | .wrUndoc9x _ _ _ | .wrFnumLo _ _ _ | .wrFnumHi _ _ _ | .wrOpFnumLo _ _ _ | .wrOpFnumHi _ _ _
  | .wrFbAlg _ _ _ | .wrLrAmsFms _ _ _ => true

end Sys2Proof
end

