-- ==== Sys2Proof/Decode.lean ====
section
/-! DEFINITION. Decode.lean: from bits to instructions and back (spec/30_encoding.md).

The decoder is total on the 17-bit transactions of R70 (R84). `G.special` never changes the class (R83), so it is no
argument here: it moves the target of 0xA2 and 0xA6 only, which Machine/Operands.lean says. Above it stands the decoder
of the byte transport (R88, R90), which rejects by name what carries no register write. The encoder follows. Last comes
the opcode table, as a list of rows read from spec/opcode_table.json, which the decoder is to agree with. -/

namespace Sys2Proof

/-! ## The fields of a transaction (R70) and of an address (R71) -/

namespace Transaction

/-- Bit 16: the port. -/
def port (t : Transaction) : Port := (t.extractLsb' 16 1).toFin

/-- Bits 15:8: the register address. -/
def addr (t : Transaction) : Addr := t.extractLsb' 8 8

/-- Bits 7:0: the data byte. -/
def data (t : Transaction) : Byte := t.extractLsb' 0 8

/-- The transaction `p : a : v` (R70): the port at bit 16, the address at bits 15:8, the data byte at bits 7:0. -/
def pack (p : Port) (a : Addr) (v : Byte) : Transaction :=
  BitVec.ofNat 17 (2 ^ 16 * p.val + 2 ^ 8 * a.toNat + v.toNat)

end Transaction

/-- `a[7:4]`: the register group (R71). -/
def groupOf (a : Addr) : Nat := (a.extractLsb' 4 4).toNat

/-- `a[3:2]`: the operator slot, or the sub-block in groups 0xA and 0xB (R71). -/
def slotOf (a : Addr) : Slot := (a.extractLsb' 2 2).toFin

/-- `a[1:0]` where it names a channel of the port, none where it is 3 (R71). -/
def offsetOf (a : Addr) : Option Offset :=
  let co := (a.extractLsb' 0 2).toNat
  if h : co < 3 then some ⟨co, h⟩ else none

/-- The address `grp : slot : co`, the inverse of the three reads above. -/
def regAddr (grp : Fin 16) (slot : Slot) (co : Offset) : Addr :=
  BitVec.ofNat 8 (16 * grp.val + 4 * slot.val + co.val)

/-! ## The decoder -/

/-- R77: the global addresses, which port 0 alone has. -/
def decodeGlobal (p : Port) (a : Addr) (v : Byte) : Instr :=
  if p = 0 then
    match a.toNat with
    | 0x22 => .wrLfo v
    | 0x26 => .wrTimerB v
    | 0x27 => .wrMode v
    | 0x28 => .wrKey v
    | 0x2A => .wrDacData v
    | 0x2B => .wrDacEn v
    | _ => .unrecognised p a v
  else .unrecognised p a v

/-- R78: an operator group; channel offset 3 is unrecognised. -/
def decodeOperatorGroup (cls : Port → Slot → Offset → Byte → Instr) (p : Port) (a : Addr) (v : Byte) : Instr :=
  match offsetOf a with
  | some co => cls p (slotOf a) co v
  | none => .unrecognised p a v

/-- R79: the undocumented group, all of 0x90 to 0x9E. -/
def decodeUndocumented (p : Port) (a : Addr) (v : Byte) : Instr :=
  let low := (a.extractLsb' 0 4).toNat
  if h : low < 15 then .wrUndoc9x p ⟨low, h⟩ v else .unrecognised p a v

/-- R80, R81: the four frequency sub-blocks of group 0xA. -/
def decodeFrequency (p : Port) (a : Addr) (v : Byte) : Instr :=
  match offsetOf a with
  | some co =>
    match slotOf a with
    | 0 => .wrFnumLo p co v
    | 1 => .wrFnumHi p co v
    | 2 => .wrOpFnumLo p co v
    | 3 => .wrOpFnumHi p co v
  | none => .unrecognised p a v

/-- R82: algorithm and feedback, then stereo and LFO sensitivity; the rest of group 0xB is unrecognised. -/
def decodeVoice (p : Port) (a : Addr) (v : Byte) : Instr :=
  match offsetOf a with
  | some co =>
    match slotOf a with
    | 0 => .wrFbAlg p co v
    | 1 => .wrLrAmsFms p co v
    | 2 => .unrecognised p a v
    | 3 => .unrecognised p a v
  | none => .unrecognised p a v

/-- R76 to R82, R86: the demultiplexer, from a selector and a data byte to an instruction. -/
def decodeSelector (p : Port) (a : Addr) (v : Byte) : Instr :=
  match groupOf a with
  | 0x2 => decodeGlobal p a v
  | 0x3 => decodeOperatorGroup .wrDtMul p a v
  | 0x4 => decodeOperatorGroup .wrTl p a v
  | 0x5 => decodeOperatorGroup .wrKsAr p a v
  | 0x6 => decodeOperatorGroup .wrAmD1r p a v
  | 0x7 => decodeOperatorGroup .wrD2r p a v
  | 0x8 => decodeOperatorGroup .wrD1lRr p a v
  | 0x9 => decodeUndocumented p a v
  | 0xA => decodeFrequency p a v
  | 0xB => decodeVoice p a v
  | _ => .unrecognised p a v

/-- The instruction a transaction stands for. Total: every transaction stands for one (R84). -/
def decode (t : Transaction) : Instr :=
  decodeSelector (Transaction.port t) (Transaction.addr t) (Transaction.data t)

/-- Why a byte sequence carries no register write to the block. -/
inductive DecodeError where
  /-- The stream has run out, which is treated as its explicit end (R200). -/
  | endOfBytes
  /-- The byte 0x66, "End-of-sound-data", which does not reach the block (R90). -/
  | endTag
  /-- A command 0x52 or 0x53 whose two operand bytes are not all there (R88). -/
  | truncated
  /-- Any other command: it does not change the block's state (R89). -/
  | notARegisterWrite (tag : Byte)
deriving DecidableEq, Repr

/-- R88: the port a register-write command names. -/
def portOfTag (tag : Byte) : Option Port :=
  if tag = 0x52 then some 0 else if tag = 0x53 then some 1 else none

/-- R88, R90: the first command of a byte stream, `52 aa dd` or `53 aa dd`, as an instruction, with the bytes after it. -/
def decodeBytes : List Byte → Except DecodeError (Instr × List Byte)
  | [] => .error .endOfBytes
  | tag :: rest =>
    if tag = 0x66 then .error .endTag
    else match portOfTag tag with
      | none => .error (.notARegisterWrite tag)
      | some p => match rest with
        | a :: v :: rest' => .ok (decodeSelector p a v, rest')
        | _ => .error .truncated

/-! ## The encoder -/

/-- The port an instruction is written on: the global classes exist on port 0 only (R77). -/
def Instr.port : Instr → Port
  | .wrLfo _ | .wrTimerB _ | .wrMode _ | .wrKey _ | .wrDacData _ | .wrDacEn _ => 0
  | .wrDtMul p _ _ _ | .wrTl p _ _ _ | .wrKsAr p _ _ _ | .wrAmD1r p _ _ _ | .wrD2r p _ _ _ | .wrD1lRr p _ _ _ => p
  | .wrUndoc9x p _ _ => p
  | .wrFnumLo p _ _ | .wrFnumHi p _ _ | .wrOpFnumLo p _ _ | .wrOpFnumHi p _ _ => p
  | .wrFbAlg p _ _ | .wrLrAmsFms p _ _ => p
  | .unrecognised p _ _ => p

/-- The register address an instruction is written to (R77 to R82). -/
def Instr.addr : Instr → Addr
  | .wrLfo _ => 0x22
  | .wrTimerB _ => 0x26
  | .wrMode _ => 0x27
  | .wrKey _ => 0x28
  | .wrDacData _ => 0x2A
  | .wrDacEn _ => 0x2B
  | .wrDtMul _ slot co _ => regAddr 0x3 slot co
  | .wrTl _ slot co _ => regAddr 0x4 slot co
  | .wrKsAr _ slot co _ => regAddr 0x5 slot co
  | .wrAmD1r _ slot co _ => regAddr 0x6 slot co
  | .wrD2r _ slot co _ => regAddr 0x7 slot co
  | .wrD1lRr _ slot co _ => regAddr 0x8 slot co
  | .wrUndoc9x _ low _ => BitVec.ofNat 8 (0x90 + low.val)
  | .wrFnumLo _ co _ => regAddr 0xA 0 co
  | .wrFnumHi _ co _ => regAddr 0xA 1 co
  | .wrOpFnumLo _ co _ => regAddr 0xA 2 co
  | .wrOpFnumHi _ co _ => regAddr 0xA 3 co
  | .wrFbAlg _ co _ => regAddr 0xB 0 co
  | .wrLrAmsFms _ co _ => regAddr 0xB 1 co
  | .unrecognised _ a _ => a

/-- The data byte an instruction writes. -/
def Instr.data : Instr → Byte
  | .wrLfo v | .wrTimerB v | .wrMode v | .wrKey v | .wrDacData v | .wrDacEn v => v
  | .wrDtMul _ _ _ v | .wrTl _ _ _ v | .wrKsAr _ _ _ v | .wrAmD1r _ _ _ v | .wrD2r _ _ _ v | .wrD1lRr _ _ _ v => v
  | .wrUndoc9x _ _ v => v
  | .wrFnumLo _ _ v | .wrFnumHi _ _ v | .wrOpFnumLo _ _ v | .wrOpFnumHi _ _ v => v
  | .wrFbAlg _ _ v | .wrLrAmsFms _ _ v => v
  | .unrecognised _ _ v => v

/-- The transaction of an instruction (R70). -/
def encode (i : Instr) : Transaction :=
  Transaction.pack i.port i.addr i.data

/-- R88: the command byte of a port. -/
def tagOfPort (p : Port) : Byte := if p = 0 then 0x52 else 0x53

/-- R90: the three transport bytes of an instruction. -/
def encodeBytes (i : Instr) : List Byte :=
  [tagOfPort i.port, i.addr, i.data]

/-! ## The opcode table (spec/opcode_table.json) -/

/-- One row: the selectors whose bits under `mask` are `pattern`, less those whose bits under `hole` are all ones
(the rows' constraints `a[1:0] != 3` and `a[3:0] != 0xF`; a zero `hole` is no constraint). -/
structure Row where
  mnemonic : String
  mask : Selector
  pattern : Selector
  hole : Selector
deriving DecidableEq, Repr

/-- The row names the selector. -/
def Row.hits (r : Row) (sel : Selector) : Bool :=
  sel &&& r.mask == r.pattern && (r.hole == 0 || sel &&& r.hole != r.hole)

/-- The rows of the global classes: every selector bit fixed, port 0. -/
def globalRows : List Row :=
  [⟨"WR_LFO", 0x1FF, 0x022, 0⟩, ⟨"WR_TIMER_B", 0x1FF, 0x026, 0⟩, ⟨"WR_MODE", 0x1FF, 0x027, 0⟩,
   ⟨"WR_KEY", 0x1FF, 0x028, 0⟩, ⟨"WR_DAC_DATA", 0x1FF, 0x02A, 0⟩, ⟨"WR_DAC_EN", 0x1FF, 0x02B, 0⟩]

/-- The rows of the operator classes and of the undocumented group. -/
def operatorRows : List Row :=
  [⟨"WR_DT_MUL", 0x0F0, 0x030, 0x003⟩, ⟨"WR_TL", 0x0F0, 0x040, 0x003⟩, ⟨"WR_KS_AR", 0x0F0, 0x050, 0x003⟩,
   ⟨"WR_AM_D1R", 0x0F0, 0x060, 0x003⟩, ⟨"WR_D2R", 0x0F0, 0x070, 0x003⟩, ⟨"WR_D1L_RR", 0x0F0, 0x080, 0x003⟩,
   ⟨"WR_UNDOC_9X", 0x0F0, 0x090, 0x00F⟩]

/-- The rows of the channel classes. -/
def channelRows : List Row :=
  [⟨"WR_FNUM_LO", 0x0FC, 0x0A0, 0x003⟩, ⟨"WR_FNUM_HI", 0x0FC, 0x0A4, 0x003⟩, ⟨"WR_OPFNUM_LO", 0x0FC, 0x0A8, 0x003⟩,
   ⟨"WR_OPFNUM_HI", 0x0FC, 0x0AC, 0x003⟩, ⟨"WR_FB_ALG", 0x0FC, 0x0B0, 0x003⟩, ⟨"WR_LR_AMS_FMS", 0x0FC, 0x0B4, 0x003⟩]

/-- Every row but `UNRECOGNISED`, which is selected only when no other row matches. -/
def opcodeRows : List Row := globalRows ++ operatorRows ++ channelRows

/-- The mnemonic the table gives a selector. -/
def tableMnemonic (sel : Selector) : String :=
  match opcodeRows.find? (·.hits sel) with
  | some r => r.mnemonic
  | none => "UNRECOGNISED"

/-- Bits 16:8 of a transaction: its selector (R70). -/
def Transaction.selector (t : Transaction) : Selector := t.extractLsb' 8 9

/-! ## Words numbered as spec/opcode_table.json numbers them -/

/-- The transaction of a table word. The table numbers the 9 bits of the selector (bit 8 is `p`, bits 7:0 are `a`) and
gives the data byte no bits; the model lays it after the selector's two bytes, in bits 23:16 (DESIGN CHOICE, log entry
8). A word that sets a bit of no field (15:9, or above 23) is no table word. -/
def tableTransaction (nbits w : Nat) : Option Transaction :=
  let w := w % 2 ^ nbits
  if w % 2 ^ 16 < 2 ^ 9 ∧ w < 2 ^ 24 then
    some (Transaction.pack (Fin.ofNat 2 (w / 2 ^ 8)) (BitVec.ofNat 8 w) (BitVec.ofNat 8 (w / 2 ^ 16)))
  else none

/-- The instruction the decoder reads from a table word. -/
def decodeTableWord (nbits w : Nat) : Option Instr :=
  (tableTransaction nbits w).map decode

end Sys2Proof
end

