-- ==== Sys2Proof/Machine/Memory.lean ====
section
/-! DEFINITION. Machine/Memory.lean: the raw register maps `RAW[0]` and `RAW[1]` (spec/10_state.md rule R33,
spec/20_memory.md) as one list of cells. The key of `RAW[p][a]` is the selector `p : a` as a number (R70), so the 512
bytes have the keys 0 to 511. A cell that is not listed reads as 0x00, the byte R33 gives every cell at reset. -/

namespace Sys2Proof.Machine

/-- The listed bytes of the two raw register maps. -/
abbrev Memory := List Host.Cell

/-- What a cell that is not listed reads as: "Every byte resets to 0x00" (R33). -/
def unlistedByte : Byte := 0x00

/-- The key of `RAW[p][a]`: the selector `p : a` (R70). -/
def rawKey (p : Port) (a : Addr) : Nat := 256 * p.val + a.toNat

/-- The byte at a key. -/
def Memory.read (m : Memory) (k : Nat) : Byte :=
  match m with
  | [] => unlistedByte
  | cell :: rest => if cell.1 = k then cell.2 else Memory.read rest k

/-- The list without the cells of a key. -/
def Memory.erase (m : Memory) (k : Nat) : Memory := m.filter fun cell => cell.1 ≠ k

/-- A cell put before the first cell of a higher key. -/
def Memory.insert (m : Memory) (k : Nat) (v : Byte) : Memory :=
  match m with
  | [] => [(k, v)]
  | cell :: rest => if k < cell.1 then (k, v) :: cell :: rest else cell :: Memory.insert rest k v

/-- The byte at a key becomes `v`; a byte that reads as an unlisted one is not listed. -/
def Memory.write (m : Memory) (k : Nat) (v : Byte) : Memory :=
  if v = unlistedByte then Memory.erase m k else Memory.insert (Memory.erase m k) k v

/-- The canonical form: keys strictly rising and below 512, and no cell that reads as an unlisted one. -/
abbrev Memory.wf (m : Memory) : Prop :=
  m.Pairwise (fun x y => x.1 < y.1) ∧ ∀ cell ∈ m, cell.1 < 512 ∧ cell.2 ≠ unlistedByte

end Sys2Proof.Machine
end

