-- ==== Sys2Proof/Machine/Params.lean ====
section
/-! DEFINITION. Machine/Params.lean: the defaults the spec decides for the open parameters (spec/00_scope.md rule R6). -/

namespace Sys2Proof.Machine

/-- The default `OP_ADDR_MAP`: the identity (R6, D5). -/
def defaultOpAddrMap : Vector OpIx 4 := #v[0, 1, 2, 3]

/-- The default `OP_FREQ_MAP`: 0 to 1, 1 to 2, 2 to 3 (R6, D12). -/
def defaultOpFreqMap : Vector OpIx 3 := #v[1, 2, 3]

/-- The operator field set, all 14 names (R32), which is the default `OPERATOR_EQ_FIELDS` (R6, D17). -/
def operatorFieldSet : List OperatorField :=
  [.dt, .mul, .tl, .ks, .ar, .am, .d1r, .d2r, .d1l, .rr, .fnumLo, .fnumHi, .block, .enabled]

/-- The default parameters (R6). -/
def defaultParams : Params :=
  { opAddrMap := defaultOpAddrMap
    opFreqMap := defaultOpFreqMap
    invalidModeUpdatesTimerBits := true
    operatorEqFields := operatorFieldSet }

/-- `RESET_VALUE` (R6, R231): the values of the decoded fields and of the raw maps when an instance comes into being.
The `index` entries are not taken from it: they are constants (R230). -/
structure ResetValues where
  globals : Globals
  channel : Vector Channel 6
  operator : Vector (Vector Operator 4) 6
  raw : Memory
deriving DecidableEq, Repr

/-- R230: every global field is 0. -/
def zeroGlobals : Globals :=
  { lfoEnable := false, lfoFreq := 0, timerB := 0
    loadA := false, loadB := false, enableA := false, enableB := false, resetA := false, resetB := false
    special := false, dacEnable := false }

/-- R230: every channel field is 0 (the index is set apart). -/
def zeroChannel : Channel :=
  { index := 0, fnumLo := 0, fnumHi := 0, block := 0, alg := 0, fb := 0
    left := false, right := false, ams := 0, fms := 0 }

/-- R230: every operator field is 0 (the index is set apart). -/
def zeroOperator : Operator :=
  { index := 0, dt := 0, mul := 0, tl := 0, ks := 0, ar := 0, am := false, d1r := 0, d2r := 0, d1l := 0, rr := 0
    fnumLo := 0, fnumHi := 0, block := 0, enabled := false }

/-- The default `RESET_VALUE`: all zero or false (R6, R231, D3). -/
def zeroResetValues : ResetValues :=
  { globals := zeroGlobals
    channel := perChannel fun _ => zeroChannel
    operator := perChannel fun _ => perOperator fun _ => zeroOperator
    raw := [] }

/-- R230: `CH[c].index = c`. -/
def numberedChannels (chs : Vector Channel 6) : Vector Channel 6 :=
  perChannel fun c => { chs[c.val] with index := BitVec.ofNat 3 c.val }

/-- R230: `OP[c][o].index = o`. -/
def numberedOperators (ops : Vector (Vector Operator 4) 6) : Vector (Vector Operator 4) 6 :=
  perChannel fun c => perOperator fun o => { ops[c.val][o.val] with index := BitVec.ofNat 2 o.val }

end Sys2Proof.Machine
end

