-- ==== Sys2Proof/Machine/State.lean ====
section
/-! DEFINITION. Machine/State.lean: the architectural state (spec/10_state.md) as plain data, the reasons a step can
stop, and the state after reset (spec/70_reset_and_hazards.md rule R230).

The block has no general registers, no flags, no program counter (R20, R21), no interrupt or trap state (R217, R218).
Three fields are the MODEL'S own and not the spec's: `params` (the open parameters an instance is built with),
`pending` (the host's operations not yet taken) and `answers` (what the read ports have returned). -/

namespace Sys2Proof.Machine

/-- Why a step stops without a next state. -/
inductive Fault where
  /-- The block holds a fault code: it takes no further write or query and has no step (R215). Raised by every port
  and every write of a faulted instance. Safe: the spec says that nothing happens from here on. -/
  | halted (code : FaultCode)
deriving DecidableEq, Repr

/-- Why an instruction is given no meaning. -/
inductive Refusal where
  /-- The instruction has no meaning in the model yet. Raised by exec's refused arms alone, of which none is left.
  Safe: nothing is claimed of it. -/
  | notModelled (mnemonic : String)
deriving DecidableEq, Repr

/-- The state of one instance of the block (R38). -/
@[ext]
structure State where
  /-- The open parameters (R6), fixed at construction. The model's own field. -/
  params : Params
  /-- `G`, the global fields (R22). -/
  globals : Globals
  /-- `CH[0]` to `CH[5]` (R26). -/
  channels : Vector Channel 6
  /-- `OP[c][o]`: four operators for each channel (R29, R30). -/
  operators : Vector (Vector Operator 4) 6
  /-- `RAW[p][a]`, the raw register maps (R33). -/
  raw : Memory
  /-- `FAULT`, the sticky fault record (R34). -/
  fault : Option FaultCode
  /-- `DIAG`, the diagnostic output, oldest event first (R35). -/
  diag : List DiagEvent
  /-- `PREV[c]`, the detector's retained snapshots (R36). -/
  prev : Vector ChannelSnapshot 6
  /-- `CHG[c]`, "the previous write changed this channel" (R36). -/
  chg : Vector Bool 6
  /-- `DUMPS`, the detector's output, oldest first (R36). -/
  dumps : List (ChanIx × ChannelSnapshot)
  /-- The host's operations not yet taken, next one first (R55, R56). The model's own field. -/
  pending : List HostOp
  /-- What the read ports have returned to the host, oldest first (R58, R190, R191). The model's own field. -/
  answers : List Answer
deriving DecidableEq, Repr

/-- Construction, the block's one reset (R230), from the parameters (R6) and the reset values (R231): the constant
indices are set, nothing has faulted or been logged, and the detector starts from the snapshots of this state (R36). -/
def State.construct (pm : Params) (rv : ResetValues) : State :=
  let channels := numberedChannels rv.channel
  let operators := numberedOperators rv.operator
  { params := pm
    globals := rv.globals
    channels := channels
    operators := operators
    raw := rv.raw
    fault := none
    diag := []
    prev := perChannel fun c => snapshotOf channels[c.val] operators[c.val]
    chg := perChannel fun _ => false
    dumps := []
    pending := []
    answers := [] }

/-- The state right after reset: the default parameters and every field at its reset value (R230). -/
def State.reset : State := State.construct defaultParams zeroResetValues

end Sys2Proof.Machine
end

