-- ==== Sys2Proof/Machine/Ops.lean ====
section
/-! DEFINITION. Machine/Ops.lean: the state-access primitives of spec/00_scope.md rule R8, the event primitives of R9,
and the two shapes every operation of the block has: taken by a running instance (R215), and a write (R52, R76).

The block has no trap entry and no return (R218): what the source calls fatal is `raiseFault`, a sticky record that only
a query port makes, and what it calls logged is `emit`. -/

namespace Sys2Proof.Machine

/-! ## State access (R8) -/

/-- `CH[c]`. -/
def State.chan (s : State) (c : ChanIx) : Channel := s.channels[c.val]

/-- `OP[c][o]`. -/
def State.oper (s : State) (c : ChanIx) (o : OpIx) : Operator := s.operators[c.val][o.val]

/-- `RAW[p][a]`, which is also `MemRead(p, a, 1)` (R8). -/
def State.rawByte (s : State) (p : Port) (a : Addr) : Byte := Memory.read s.raw (rawKey p a)

/-- `CH[c]` rewritten by `f`; every other part of the state keeps its value. -/
def State.updateChan (s : State) (c : ChanIx) (f : Channel → Channel) : State :=
  { s with channels := s.channels.set c.val (f (s.chan c)) }

/-- `OP[c][o]` rewritten by `f`; every other part of the state keeps its value. -/
def State.updateOper (s : State) (c : ChanIx) (o : OpIx) (f : Operator → Operator) : State :=
  { s with operators := s.operators.set c.val ((s.operators[c.val]).set o.val (f (s.oper c o))) }

/-- `G` rewritten by `f`; every other part of the state keeps its value. -/
def State.updateGlobals (s : State) (f : Globals → Globals) : State :=
  { s with globals := f s.globals }

/-- `RAW[p][a] <- v`, which is also `MemWrite(p, a, 1, v)` (R8). -/
def State.storeRaw (s : State) (p : Port) (a : Addr) (v : Byte) : State :=
  { s with raw := Memory.write s.raw (rawKey p a) v }

/-- The four operators of channel `c` rewritten, each by `f` of its number. -/
def State.updateOpers (s : State) (c : ChanIx) (f : OpIx → Operator → Operator) : State :=
  { s with operators := s.operators.set c.val (perOperator fun o => f o (s.oper c o)) }

/-! ## Events (R9) -/

/-- `emit Diag(code, p, a, v)`: one event is appended to the diagnostic output and nothing else changes (R9, R210). -/
def State.emit (s : State) (code : DiagCode) (p : Port) (a : Addr) (v : Byte) : State :=
  { s with diag := s.diag ++ [⟨code, p, a, v⟩] }

/-- `raise Fault(code)`: the fault record takes the code, and every other part of the state keeps its value (R9, R215). -/
def State.raiseFault (s : State) (code : FaultCode) : State :=
  { s with fault := some code }

/-- A read port returns a value to the host (R58, R190, R191). -/
def State.answer (s : State) (a : Answer) : State :=
  { s with answers := s.answers ++ [a] }

/-! ## Operations -/

/-- What one operation of the block answers. -/
abbrev Result := Host.Outcome State Fault Refusal

/-- An operation of a running instance. An instance that has faulted takes no write and no query: it has no step (R215). -/
def whenRunning (s : State) (after : State) : Result :=
  match s.fault with
  | none => .next after
  | some code => .fault (.halted code)

/-- A write (R76): the data byte is stored in the raw map at the write's own port and address (R52), and the decoded
effect of its class follows, both in one transition (R56). -/
def takeWrite (i : Instr) (effect : State → State) (s : State) : Result :=
  whenRunning s (effect (s.storeRaw i.port i.addr i.data))

end Sys2Proof.Machine
end

