-- ==== Sys2Proof/Machine/Queries.lean ====
section
/-! DEFINITION. Machine/Queries.lean: the read ports (spec/43_queries.md §1, spec/20_memory.md rule R58), the snapshots
they return, and the equality of snapshots (spec/43_queries.md §3). -/

namespace Sys2Proof.Machine

/-- `ChannelSnapshot(c)` (R192). -/
def State.snapshot (s : State) (c : ChanIx) : ChannelSnapshot := snapshotOf (s.chan c) s.operators[c.val]

/-- R190: `channel(i)` returns the snapshot, or raises a fault and returns nothing. -/
def queryChannel (i : Nat) (s : State) : Result :=
  whenRunning s
    (if h : i < 6 then s.answer (.channel (s.snapshot ⟨i, h⟩)) else s.raiseFault .channelIndexOutOfBounds)

/-- R191, R216: `channel(i).operator(j)`, with the channel check first. -/
def queryOperator (i j : Nat) (s : State) : Result :=
  whenRunning s
    (if hi : i < 6 then
      if hj : j < 4 then s.answer (.operator (s.oper ⟨i, hi⟩ ⟨j, hj⟩)) else s.raiseFault .operatorIndexOutOfBounds
    else s.raiseFault .channelIndexOutOfBounds)

/-- R58: the raw read returns `RAW[p][a]`; it never faults and has no side effect. -/
def readRaw (p : Port) (a : Addr) (s : State) : Result :=
  whenRunning s (s.answer (.raw (s.rawByte p a)))

/-- Two operators agree on one field of the operator field set (R32). -/
def sameField (f : OperatorField) (x y : Operator) : Bool :=
  match f with
  | .dt => x.dt == y.dt
  | .mul => x.mul == y.mul
  | .tl => x.tl == y.tl
  | .ks => x.ks == y.ks
  | .ar => x.ar == y.ar
  | .am => x.am == y.am
  | .d1r => x.d1r == y.d1r
  | .d2r => x.d2r == y.d2r
  | .d1l => x.d1l == y.d1l
  | .rr => x.rr == y.rr
  | .fnumLo => x.fnumLo == y.fnumLo
  | .fnumHi => x.fnumHi == y.fnumHi
  | .block => x.block == y.block
  | .enabled => x.enabled == y.enabled

/-- `opEq` (R196): equal on every field of the parameter `OPERATOR_EQ_FIELDS`. -/
def opEq (fields : List OperatorField) (x y : OperatorSnapshot) : Bool :=
  fields.all fun f => sameField f x y

/-- `chEq` (R195): the index, the algorithm, the feedback and the four operators; nothing else is compared. -/
def chEq (fields : List OperatorField) (x y : ChannelSnapshot) : Bool :=
  x.index == y.index && x.alg == y.alg && x.fb == y.fb
    && opEq fields x.ops[0] y.ops[0] && opEq fields x.ops[1] y.ops[1]
    && opEq fields x.ops[2] y.ops[2] && opEq fields x.ops[3] y.ops[3]

end Sys2Proof.Machine
end

