-- ==== Sys2Proof/Machine/Detector.lean ====
section
/-! DEFINITION. Machine/Detector.lean: the preset-change detector (spec/43_queries.md §4), the consumer unit that runs
once after every write the interpreter takes. -/

namespace Sys2Proof.Machine

/-- The channel's snapshot differs from the retained one (R195, R197). -/
def State.changed (s : State) (c : ChanIx) : Bool :=
  !chEq s.params.operatorEqFields (s.snapshot c) s.prev[c.val]

/-- R197: the body of the loop for one channel. A change that no change came before dumps the RETAINED snapshot. -/
def detectChannel (s : State) (c : ChanIx) : State :=
  { s with
    dumps := if s.changed c && !s.chg[c.val] then s.dumps ++ [(c, s.prev[c.val])] else s.dumps
    chg := s.chg.set c.val (s.changed c)
    prev := s.prev.set c.val (s.snapshot c) }

/-- R197: the channels in the order the loop visits them. -/
def allChannels : List ChanIx := [0, 1, 2, 3, 4, 5]

/-- R197: one run of the detector. -/
def detect (s : State) : State := allChannels.foldl detectChannel s

/-- The detector runs after a write that was taken; there is nothing to run after one that was not. -/
def thenDetect (r : Result) : Result :=
  match r with
  | .next s => .next (detect s)
  | .fault f => .fault f
  | .refused f => .refused f

end Sys2Proof.Machine
end

