-- ==== Sys2Proof/Machine/Operands.lean ====
section
/-! DEFINITION. Machine/Operands.lean: what a write's operands name. First the slices of the data byte (the layout table
of spec/30_encoding.md rule R74), then the channel or the operator a write reaches (R72, R73, R80, R81). Every slice is
unsigned and stored as it is (R74); a bit that no slice takes is ignored by the decoded effect. -/

namespace Sys2Proof.Machine

/-! ## The data byte's fields, one line for each field of R74 -/

/-- `v[3]` of `WR_LFO`. -/
def dataLfoEnable (v : Byte) : Bool := v.getLsbD 3
/-- `v[2:0]` of `WR_LFO`. -/
def dataLfoFreq (v : Byte) : BitVec 3 := v.extractLsb' 0 3
/-- `v[7:0]` of `WR_TIMER_B`. -/
def dataTimerB (v : Byte) : BitVec 8 := v
/-- `v[7:6]` of `WR_MODE` (R75). -/
def dataMode (v : Byte) : BitVec 2 := v.extractLsb' 6 2
/-- `v[5]` of `WR_MODE`. -/
def dataResetB (v : Byte) : Bool := v.getLsbD 5
/-- `v[4]` of `WR_MODE`. -/
def dataResetA (v : Byte) : Bool := v.getLsbD 4
/-- `v[3]` of `WR_MODE`. -/
def dataEnableB (v : Byte) : Bool := v.getLsbD 3
/-- `v[2]` of `WR_MODE`. -/
def dataEnableA (v : Byte) : Bool := v.getLsbD 2
/-- `v[1]` of `WR_MODE`. -/
def dataLoadB (v : Byte) : Bool := v.getLsbD 1
/-- `v[0]` of `WR_MODE`. -/
def dataLoadA (v : Byte) : Bool := v.getLsbD 0
/-- `v[2:0]` of `WR_KEY`, the channel code. -/
def dataChsel (v : Byte) : BitVec 3 := v.extractLsb' 0 3
/-- `v[7]` of `WR_DAC_EN`. -/
def dataDacEnable (v : Byte) : Bool := v.getLsbD 7
/-- `v[6:4]` of `WR_DT_MUL`. -/
def dataDt (v : Byte) : BitVec 3 := v.extractLsb' 4 3
/-- `v[3:0]` of `WR_DT_MUL`. -/
def dataMul (v : Byte) : BitVec 4 := v.extractLsb' 0 4
/-- `v[6:0]` of `WR_TL`. -/
def dataTl (v : Byte) : BitVec 7 := v.extractLsb' 0 7
/-- `v[7:6]` of `WR_KS_AR`. -/
def dataKs (v : Byte) : BitVec 2 := v.extractLsb' 6 2
/-- `v[4:0]` of `WR_KS_AR`. -/
def dataAr (v : Byte) : BitVec 5 := v.extractLsb' 0 5
/-- `v[7]` of `WR_AM_D1R`. -/
def dataAm (v : Byte) : Bool := v.getLsbD 7
/-- `v[4:0]` of `WR_AM_D1R`. -/
def dataD1r (v : Byte) : BitVec 5 := v.extractLsb' 0 5
/-- `v[4:0]` of `WR_D2R`. -/
def dataD2r (v : Byte) : BitVec 5 := v.extractLsb' 0 5
/-- `v[7:4]` of `WR_D1L_RR`. -/
def dataD1l (v : Byte) : BitVec 4 := v.extractLsb' 4 4
/-- `v[3:0]` of `WR_D1L_RR`. -/
def dataRr (v : Byte) : BitVec 4 := v.extractLsb' 0 4
/-- `v[7:0]` of `WR_FNUM_LO` and of `WR_OPFNUM_LO`. -/
def dataFnumLo (v : Byte) : BitVec 8 := v
/-- `v[2:0]` of `WR_FNUM_HI` and of `WR_OPFNUM_HI`. -/
def dataFnumHi (v : Byte) : BitVec 3 := v.extractLsb' 0 3
/-- `v[5:3]` of `WR_FNUM_HI` and of `WR_OPFNUM_HI`. -/
def dataBlock (v : Byte) : BitVec 3 := v.extractLsb' 3 3
/-- `v[5:3]` of `WR_FB_ALG`. -/
def dataFb (v : Byte) : BitVec 3 := v.extractLsb' 3 3
/-- `v[2:0]` of `WR_FB_ALG`. -/
def dataAlg (v : Byte) : BitVec 3 := v.extractLsb' 0 3
/-- `v[7]` of `WR_LR_AMS_FMS`. -/
def dataLeft (v : Byte) : Bool := v.getLsbD 7
/-- `v[6]` of `WR_LR_AMS_FMS`. -/
def dataRight (v : Byte) : Bool := v.getLsbD 6
/-- `v[5:4]` of `WR_LR_AMS_FMS`. -/
def dataAms (v : Byte) : BitVec 2 := v.extractLsb' 4 2
/-- `v[2:0]` of `WR_LR_AMS_FMS`. -/
def dataFms (v : Byte) : BitVec 3 := v.extractLsb' 0 3

/-! ## Targets -/

/-- What a write's decoded effect reaches: the `(c, o)` of `decode(p, a, s) = (k, c, o)` (R76). -/
inductive Target where
  /-- `(-, -)`: global fields, the key register (whose channel is a data field), or no decoded field. -/
  | other
  /-- `(c, -)`: the fields of a channel. -/
  | channel (c : ChanIx)
  /-- `(c, o)`: the fields of an operator. -/
  | operator (c : ChanIx) (o : OpIx)
deriving DecidableEq, Repr

/-- R72: the channel `3*p + co`. -/
def channelAt (p : Port) (co : Offset) : ChanIx := ⟨3 * p.val + co.val, by omega⟩

/-- The channel of a port whose operators have frequencies of their own, `3*p + 2` (R80, R81): 2 or 5. -/
def specialChannel (p : Port) : ChanIx := channelAt p 2

/-- R80: 0xA0-0xA2 and 0xA4-0xA6 reach the channel, but for offset 2 in special mode, which reaches its operator 0. -/
def freqTarget (p : Port) (co : Offset) (special : Bool) : Target :=
  if co = 2 ∧ special = true then .operator (specialChannel p) 0 else .channel (channelAt p co)

/-- R76 to R82: what an instruction reaches, under the parameters and the special-mode bit. -/
def Instr.target (i : Instr) (pm : Params) (special : Bool) : Target :=
  match i with
  | .wrDtMul p slot co _ | .wrTl p slot co _ | .wrKsAr p slot co _
  | .wrAmD1r p slot co _ | .wrD2r p slot co _ | .wrD1lRr p slot co _ =>
    .operator (channelAt p co) (pm.operatorOfSlot slot)
  | .wrFnumLo p co _ | .wrFnumHi p co _ => freqTarget p co special
  | .wrOpFnumLo p co _ | .wrOpFnumHi p co _ => .operator (specialChannel p) (pm.operatorOfFreq co)
  | .wrFbAlg p co _ | .wrLrAmsFms p co _ => .channel (channelAt p co)
  | .wrLfo _ | .wrTimerB _ | .wrMode _ | .wrKey _ | .wrDacData _ | .wrDacEn _
  | .wrUndoc9x _ _ _ | .unrecognised _ _ _ => .other

/-- R106: the key register's discontinuous channel map; 0b011 and 0b111 name no channel. -/
def keyChannel (v : Byte) : Option ChanIx :=
  match (dataChsel v).toNat with
  | 0 => some 0
  | 1 => some 1
  | 2 => some 2
  | 4 => some 3
  | 5 => some 4
  | 6 => some 5
  | _ => none

end Sys2Proof.Machine
end

