-- ==== Sys2Proof/Machine/Flags.lean ====
section
/-! DEFINITION. Machine/Flags.lean: the one-bit computations of the block. There are NO status flags and no condition
codes, and no write sets a flag as a side effect (spec/10_state.md rule R20). What stands here are the four
operator-enabled flags a key write assigns (R106) and the reading of the mode pattern (R75, R104, R105). -/

namespace Sys2Proof.Machine

/-- R106: the enabled flag of operator `o` is `v[4 + o]`. -/
def keyFlag (v : Byte) (o : OpIx) : Bool := v.getLsbD (4 + o.val)

/-- R75, R104: 0b00 is normal mode, 0b01 special mode, and any other pattern leaves the mode bit alone. -/
def modeOf (v : Byte) : Option Bool :=
  match (dataMode v).toNat with
  | 0 => some false
  | 1 => some true
  | _ => none

/-- R104: the six timer bits of a mode byte. -/
def withTimerBits (v : Byte) (g : Globals) : Globals :=
  { g with resetB := dataResetB v, resetA := dataResetA v, enableB := dataEnableB v, enableA := dataEnableA v
           loadB := dataLoadB v, loadA := dataLoadA v }

end Sys2Proof.Machine
end

