-- ==== Sys2Proof/Machine/ChannelRegs.lean ====
section
/-! DEFINITION. Machine/ChannelRegs.lean: the frequency, algorithm/feedback and stereo/LFO-sensitivity classes
(spec/42_channel_registers.md). No write latches another (R237): each stores its fields at once. -/

namespace Sys2Proof.Machine

/-- A frequency write: the target's frequency fields are rewritten, a channel's by `f` and an operator's by `g`. -/
def freqEffect (target : Target) (f : Channel → Channel) (g : Operator → Operator) (s : State) : State :=
  match target with
  | .channel c => s.updateChan c f
  | .operator c o => s.updateOper c o g
  | .other => s

/-- R160: `fnum_lo <- v` of a channel. -/
def setChanFnumLo (v : Byte) (ch : Channel) : Channel := { ch with fnumLo := dataFnumLo v }

/-- R160, R164: `fnum_lo <- v` of an operator. -/
def setOperFnumLo (v : Byte) (op : Operator) : Operator := { op with fnumLo := dataFnumLo v }

/-- R162: `block <- v[5:3]`, `fnum_hi <- v[2:0]` of a channel. -/
def setChanFnumHi (v : Byte) (ch : Channel) : Channel := { ch with block := dataBlock v, fnumHi := dataFnumHi v }

/-- R162, R166: `block <- v[5:3]`, `fnum_hi <- v[2:0]` of an operator. -/
def setOperFnumHi (v : Byte) (op : Operator) : Operator := { op with block := dataBlock v, fnumHi := dataFnumHi v }

/-- R160, R167: the channel, or in special mode operator 0 of channel 2 or 5, with the mode as it is at this write. -/
def fnumLoEffect (p : Port) (co : Offset) (v : Byte) (s : State) : State :=
  freqEffect (freqTarget p co s.globals.special) (setChanFnumLo v) (setOperFnumLo v) s

/-- `WR_FNUM_LO` (R160). -/
def execWrFnumLo (p : Port) (co : Offset) (v : Byte) (s : State) : Result :=
  takeWrite (.wrFnumLo p co v) (fnumLoEffect p co v) s

/-- R162, R167: as R160, for the most significant part and the octave. -/
def fnumHiEffect (p : Port) (co : Offset) (v : Byte) (s : State) : State :=
  freqEffect (freqTarget p co s.globals.special) (setChanFnumHi v) (setOperFnumHi v) s

/-- `WR_FNUM_HI` (R162). -/
def execWrFnumHi (p : Port) (co : Offset) (v : Byte) (s : State) : Result :=
  takeWrite (.wrFnumHi p co v) (fnumHiEffect p co v) s

/-- R164: operators 1 to 3 of channel 2 or 5, whatever the mode (90_conflicts.md C1). -/
def opFnumLoEffect (p : Port) (co : Offset) (v : Byte) (s : State) : State :=
  s.updateOper (specialChannel p) (s.params.operatorOfFreq co) (setOperFnumLo v)

/-- `WR_OPFNUM_LO` (R164). -/
def execWrOpFnumLo (p : Port) (co : Offset) (v : Byte) (s : State) : Result :=
  takeWrite (.wrOpFnumLo p co v) (opFnumLoEffect p co v) s

/-- R166: operators 1 to 3 of channel 2 or 5, whatever the mode. -/
def opFnumHiEffect (p : Port) (co : Offset) (v : Byte) (s : State) : State :=
  s.updateOper (specialChannel p) (s.params.operatorOfFreq co) (setOperFnumHi v)

/-- `WR_OPFNUM_HI` (R166). -/
def execWrOpFnumHi (p : Port) (co : Offset) (v : Byte) (s : State) : Result :=
  takeWrite (.wrOpFnumHi p co v) (opFnumHiEffect p co v) s

/-- R170: `fb <- v[5:3]`, `alg <- v[2:0]`. -/
def setFbAlg (v : Byte) (ch : Channel) : Channel := { ch with fb := dataFb v, alg := dataAlg v }

/-- The channel effect of `WR_FB_ALG`. -/
def fbAlgEffect (p : Port) (co : Offset) (v : Byte) (s : State) : State := s.updateChan (channelAt p co) (setFbAlg v)

/-- `WR_FB_ALG` (R170). -/
def execWrFbAlg (p : Port) (co : Offset) (v : Byte) (s : State) : Result :=
  takeWrite (.wrFbAlg p co v) (fbAlgEffect p co v) s

/-- R172: `left <- v[7]`, `right <- v[6]`, `ams <- v[5:4]`, `fms <- v[2:0]`. -/
def setLrAmsFms (v : Byte) (ch : Channel) : Channel :=
  { ch with left := dataLeft v, right := dataRight v, ams := dataAms v, fms := dataFms v }

/-- The channel effect of `WR_LR_AMS_FMS`. -/
def lrAmsFmsEffect (p : Port) (co : Offset) (v : Byte) (s : State) : State :=
  s.updateChan (channelAt p co) (setLrAmsFms v)

/-- `WR_LR_AMS_FMS` (R172). -/
def execWrLrAmsFms (p : Port) (co : Offset) (v : Byte) (s : State) : Result :=
  takeWrite (.wrLrAmsFms p co v) (lrAmsFmsEffect p co v) s

end Sys2Proof.Machine
end

