-- ==== Sys2Proof/Machine/GlobalRegs.lean ====
section
/-! DEFINITION. Machine/GlobalRegs.lean: the six global register classes (spec/40_global_registers.md). -/

namespace Sys2Proof.Machine

/-- R100: `G.lfo_enable <- v[3]`, `G.lfo_freq <- v[2:0]`. -/
def lfoEffect (v : Byte) (s : State) : State :=
  s.updateGlobals fun g => { g with lfoEnable := dataLfoEnable v, lfoFreq := dataLfoFreq v }

/-- `WR_LFO` (R100). -/
def execWrLfo (v : Byte) (s : State) : Result := takeWrite (.wrLfo v) (lfoEffect v) s

/-- R102: `G.timer_b <- v`. No counter is loaded (R24). -/
def timerBEffect (v : Byte) (s : State) : State :=
  s.updateGlobals fun g => { g with timerB := dataTimerB v }

/-- `WR_TIMER_B` (R102). -/
def execWrTimerB (v : Byte) (s : State) : Result := takeWrite (.wrTimerB v) (timerBEffect v) s

/-- R104, R105: a legal pattern assigns the mode bit and the timer bits. An invalid one leaves the mode bit, assigns the
timer bits if the parameter says so, and is logged. -/
def modeEffect (v : Byte) (s : State) : State :=
  match modeOf v with
  | some special => s.updateGlobals fun g => { withTimerBits v g with special := special }
  | none =>
    (s.updateGlobals fun g => if s.params.invalidModeUpdatesTimerBits then withTimerBits v g else g).emit
      .invalidModePattern 0 0x27 v

/-- `WR_MODE` (R104). -/
def execWrMode (v : Byte) (s : State) : Result := takeWrite (.wrMode v) (modeEffect v) s

/-- R106, R107: the mask assigns all four enabled flags of the channel; an invalid channel code is logged and changes
no flag. -/
def keyEffect (v : Byte) (s : State) : State :=
  match keyChannel v with
  | some c => s.updateOpers c fun o op => { op with enabled := keyFlag v o }
  | none => s.emit .invalidKeyChannel 0 0x28 v

/-- `WR_KEY` (R106). -/
def execWrKey (v : Byte) (s : State) : Result := takeWrite (.wrKey v) (keyEffect v) s

/-- `WR_DAC_DATA` (R109): no decoded effect; the byte is in the raw map alone. -/
def execWrDacData (v : Byte) (s : State) : Result := takeWrite (.wrDacData v) id s

/-- R110: `G.dac_enable <- v[7]`. -/
def dacEnEffect (v : Byte) (s : State) : State :=
  s.updateGlobals fun g => { g with dacEnable := dataDacEnable v }

/-- `WR_DAC_EN` (R110). -/
def execWrDacEn (v : Byte) (s : State) : Result := takeWrite (.wrDacEn v) (dacEnEffect v) s

end Sys2Proof.Machine
end

