-- ==== Sys2Proof/Machine/OperatorRegs.lean ====
section
/-! DEFINITION. Machine/OperatorRegs.lean: the six operator register classes and the undocumented group
(spec/41_operator_registers.md). Each of the six reaches one operator, `OP[3*p + co][OP_ADDR_MAP(slot)]`. -/

namespace Sys2Proof.Machine

/-- The operator an operator-register write reaches, rewritten by `f` (R72, R73). -/
def operatorEffect (p : Port) (slot : Slot) (co : Offset) (f : Operator → Operator) (s : State) : State :=
  s.updateOper (channelAt p co) (s.params.operatorOfSlot slot) f

/-- R130: `dt <- v[6:4]`, `mul <- v[3:0]`. -/
def setDtMul (v : Byte) (op : Operator) : Operator := { op with dt := dataDt v, mul := dataMul v }

/-- `WR_DT_MUL` (R130). -/
def execWrDtMul (p : Port) (slot : Slot) (co : Offset) (v : Byte) (s : State) : Result :=
  takeWrite (.wrDtMul p slot co v) (operatorEffect p slot co (setDtMul v)) s

/-- R132: `tl <- v[6:0]`. -/
def setTl (v : Byte) (op : Operator) : Operator := { op with tl := dataTl v }

/-- `WR_TL` (R132). -/
def execWrTl (p : Port) (slot : Slot) (co : Offset) (v : Byte) (s : State) : Result :=
  takeWrite (.wrTl p slot co v) (operatorEffect p slot co (setTl v)) s

/-- R134: `ks <- v[7:6]`, `ar <- v[4:0]`. -/
def setKsAr (v : Byte) (op : Operator) : Operator := { op with ks := dataKs v, ar := dataAr v }

/-- `WR_KS_AR` (R134). -/
def execWrKsAr (p : Port) (slot : Slot) (co : Offset) (v : Byte) (s : State) : Result :=
  takeWrite (.wrKsAr p slot co v) (operatorEffect p slot co (setKsAr v)) s

/-- R136: `am <- v[7]`, `d1r <- v[4:0]`. -/
def setAmD1r (v : Byte) (op : Operator) : Operator := { op with am := dataAm v, d1r := dataD1r v }

/-- `WR_AM_D1R` (R136). -/
def execWrAmD1r (p : Port) (slot : Slot) (co : Offset) (v : Byte) (s : State) : Result :=
  takeWrite (.wrAmD1r p slot co v) (operatorEffect p slot co (setAmD1r v)) s

/-- R138: `d2r <- v[4:0]`. -/
def setD2r (v : Byte) (op : Operator) : Operator := { op with d2r := dataD2r v }

/-- `WR_D2R` (R138). -/
def execWrD2r (p : Port) (slot : Slot) (co : Offset) (v : Byte) (s : State) : Result :=
  takeWrite (.wrD2r p slot co v) (operatorEffect p slot co (setD2r v)) s

/-- R140: `d1l <- v[7:4]`, `rr <- v[3:0]`. -/
def setD1lRr (v : Byte) (op : Operator) : Operator := { op with d1l := dataD1l v, rr := dataRr v }

/-- `WR_D1L_RR` (R140). -/
def execWrD1lRr (p : Port) (slot : Slot) (co : Offset) (v : Byte) (s : State) : Result :=
  takeWrite (.wrD1lRr p slot co v) (operatorEffect p slot co (setD1lRr v)) s

/-- R142: the write is logged and has no decoded effect. -/
def undocEffect (p : Port) (a : Addr) (v : Byte) (s : State) : State := s.emit .unmodelledRegister p a v

/-- `WR_UNDOC_9X` (R142). -/
def execWrUndoc9x (p : Port) (low : Fin 15) (v : Byte) (s : State) : Result :=
  takeWrite (.wrUndoc9x p low v) (undocEffect p (Instr.addr (.wrUndoc9x p low v)) v) s

end Sys2Proof.Machine
end

