-- ==== Sys2Proof/Machine/Unrecognised.lean ====
section
/-! DEFINITION. Machine/Unrecognised.lean: the class of every selector no other class names (spec/30_encoding.md rule
R86): logged, and nothing decoded. -/

namespace Sys2Proof.Machine

/-- R86: `emit Diag(UNRECOGNISED_REGISTER, p, a, v)`, and nothing else. -/
def unrecognisedEffect (p : Port) (a : Addr) (v : Byte) (s : State) : State := s.emit .unrecognisedRegister p a v

/-- `UNRECOGNISED` (R86). It never faults (R53). -/
def execUnrecognised (p : Port) (a : Addr) (v : Byte) (s : State) : Result :=
  takeWrite (.unrecognised p a v) (unrecognisedEffect p a v) s

end Sys2Proof.Machine
end

