-- ==== Sys2Proof/Machine/Dispatch.lean ====
section
/-! DEFINITION. Machine/Dispatch.lean: one arm per register class. -/

namespace Sys2Proof.Machine

def exec (i : Instr) (s : State) : Host.Outcome State Fault Refusal :=
  match i with
  | .wrLfo v => Sys2Proof.Machine.execWrLfo v s
  | .wrTimerB v => Sys2Proof.Machine.execWrTimerB v s
  | .wrMode v => Sys2Proof.Machine.execWrMode v s
  | .wrKey v => Sys2Proof.Machine.execWrKey v s
  | .wrDacData v => Sys2Proof.Machine.execWrDacData v s
  | .wrDacEn v => Sys2Proof.Machine.execWrDacEn v s
  | .wrDtMul p slot co v => Sys2Proof.Machine.execWrDtMul p slot co v s
  | .wrTl p slot co v => Sys2Proof.Machine.execWrTl p slot co v s
  | .wrKsAr p slot co v => Sys2Proof.Machine.execWrKsAr p slot co v s
  | .wrAmD1r p slot co v => Sys2Proof.Machine.execWrAmD1r p slot co v s
  | .wrD2r p slot co v => Sys2Proof.Machine.execWrD2r p slot co v s
  | .wrD1lRr p slot co v => Sys2Proof.Machine.execWrD1lRr p slot co v s
  | .wrUndoc9x p low v => Sys2Proof.Machine.execWrUndoc9x p low v s
  | .wrFnumLo p co v => Sys2Proof.Machine.execWrFnumLo p co v s
  | .wrFnumHi p co v => Sys2Proof.Machine.execWrFnumHi p co v s
  | .wrOpFnumLo p co v => Sys2Proof.Machine.execWrOpFnumLo p co v s
  | .wrOpFnumHi p co v => Sys2Proof.Machine.execWrOpFnumHi p co v s
  | .wrFbAlg p co v => Sys2Proof.Machine.execWrFbAlg p co v s
  | .wrLrAmsFms p co v => Sys2Proof.Machine.execWrLrAmsFms p co v s
  | .unrecognised p a v => Sys2Proof.Machine.execUnrecognised p a v s

end Sys2Proof.Machine
end

