-- ==== Sys2Proof/Machine/HostPort.lean ====
section
/-! DEFINITION. Machine/HostPort.lean: one host operation at the block's ports (spec/92_eei_decisions.md D2). Operations
are taken one at a time and each is atomic (spec/20_memory.md rule R56). -/

namespace Sys2Proof.Machine

/-- The effect of one host operation: a write is decoded and executed, and the detector runs after it (R76, R197); the
read ports answer (R58, R190, R191), and the detector does not run. -/
def takeOp (op : HostOp) (s : State) : Result :=
  match op with
  | .write t => thenDetect (exec (decode t) s)
  | .channel i => queryChannel i s
  | .operator i j => queryOperator i j s
  | .rawRead p a => readRaw p a s

/-- The host's operations in the order they are to be taken, `ops` before whatever is still pending. -/
def State.withOps (s : State) (ops : List HostOp) : State := { s with pending := ops ++ s.pending }

/-- The host's next operation is this one. -/
def State.present (s : State) (op : HostOp) : State := { s with pending := op :: s.pending }

/-- One step: the next pending operation is taken. With none pending the block waits for the host and nothing changes:
it never stops by itself (R200). An instance that has faulted has no step at all (R215). -/
def stepHost (s : State) : Result :=
  match s.pending with
  | [] => whenRunning s s
  | op :: rest => takeOp op { s with pending := rest }

end Sys2Proof.Machine
end

