-- ==== Sys2Proof/Machine/Transport.lean ====
section
/-! DEFINITION. Machine/Transport.lean: how a host's program reaches the write port (spec/30_encoding.md §5): the byte
stream of register-write commands (R88 to R90) and the pseudo-instructions of the spec's notation (R91, R92). The rest of
the host's stream format is outside the block (spec/00_scope.md rule R4). -/

namespace Sys2Proof.Machine

/-- `Wp aa, dd` (R90): a write offered to the write port. -/
def writeOp (p : Port) (a : Addr) (v : Byte) : HostOp := .write (Transaction.pack p a v)

/-- The writes a host delivers from a byte stream of register-write commands, up to the end tag or to where the bytes run
out, which is the same (R88, R90, R200). A command that carries no register write stops the reading by name: how long it
is belongs to the stream's parser, which is outside the block (R4). -/
def deliver : List Byte → Except DecodeError (List HostOp)
  | [] => .ok []
  | [tag] => if tag = 0x66 then .ok [] else match portOfTag tag with
    | some _ => .error .truncated
    | none => .error (.notARegisterWrite tag)
  | [tag, _] => if tag = 0x66 then .ok [] else match portOfTag tag with
    | some _ => .error .truncated
    | none => .error (.notARegisterWrite tag)
  | tag :: a :: v :: rest =>
    if tag = 0x66 then .ok [] else match portOfTag tag with
    | some p => (deliver rest).map (writeOp p a v :: ·)
    | none => .error (.notARegisterWrite tag)

/-- R92: the channel code of the key register, the inverse of its channel map. -/
def chcode (c : ChanIx) : BitVec 3 :=
  match c with
  | 0 => 0b000
  | 1 => 0b001
  | 2 => 0b010
  | 3 => 0b100
  | 4 => 0b101
  | 5 => 0b110

/-- The port of a channel: `c div 3` (R91). -/
def portOfChannel (c : ChanIx) : Port := ⟨c.val / 3, by omega⟩

/-- The offset of a channel on its port: `c mod 3` (R91). -/
def offsetOfChannel (c : ChanIx) : Offset := ⟨c.val % 3, by omega⟩

/-- `slotof`: a slot that `OP_ADDR_MAP` sends to the operator, the only one where the map is a bijection (R91). -/
def slotOfOperator (pm : Params) (o : OpIx) : Option Slot :=
  [0, 1, 2, 3].find? fun k => pm.operatorOfSlot k = o

/-- R91: `KEY c, m` is `W0 0x28, (m << 4) | chcode(c)`. -/
def keyOp (c : ChanIx) (m : BitVec 4) : HostOp :=
  writeOp 0 0x28 ((m.zeroExtend 8 <<< 4) ||| (chcode c).zeroExtend 8)

/-- R91: `VOICE c, alg, fb` is `Wp 0xB0+co, (fb << 3) | alg`. -/
def voiceOp (c : ChanIx) (alg fb : BitVec 3) : HostOp :=
  writeOp (portOfChannel c) (0xB0 + BitVec.ofNat 8 (offsetOfChannel c).val)
    ((fb.zeroExtend 8 <<< 3) ||| alg.zeroExtend 8)

/-- R91: `OPREG grp, c, o, v` is `Wp (grp << 4) + (slotof(o) << 2) + co, v`; none where no slot maps to the operator. -/
def opRegOp (pm : Params) (grp : BitVec 4) (c : ChanIx) (o : OpIx) (v : Byte) : Option HostOp :=
  (slotOfOperator pm o).map fun k =>
    writeOp (portOfChannel c)
      ((grp.zeroExtend 8 <<< 4) + (BitVec.ofNat 8 k.val <<< 2) + BitVec.ofNat 8 (offsetOfChannel c).val) v

/-- R91: `SPECIAL on` is `W0 0x27, (on ? 0x40 : 0x00)`. -/
def specialOp (on : Bool) : HostOp := writeOp 0 0x27 (if on then 0x40 else 0x00)

end Sys2Proof.Machine
end

