-- ==== Sys2Proof/Machine/Step.lean ====
section
/-! DEFINITION. Machine/Step.lean: one step of the block, and where an instruction from outside is placed. -/

namespace Sys2Proof.Machine

/-- One step (Machine/HostPort.lean). -/
def step (s : State) : Host.Outcome State Fault Refusal := stepHost s

/-- The state with the instruction of a table word offered as the host's next write, which is all that step takes to run
it. A word that is no table word (it sets a bit of no field) is no instruction, and the state is left as it is. -/
def State.withFetchWord (s : State) (nbits w : Nat) : State :=
  match tableTransaction nbits w with
  | some t => s.present (.write t)
  | none => s

end Sys2Proof.Machine
end

