-- ==== Sys2Proof/Safety.lean ====
section
/-! DEFINITION. Safety.lean: what a run is and when it succeeds (spec/43_queries.md rule R200), what every state a run
reaches satisfies, and the words the claims say their frames in. -/

namespace Sys2Proof.Machine

/-! ## Runs -/

/-- The run of a sequence of host operations: one step each, in their order (R56). -/
def runOps (ops : List HostOp) (s : State) : Result :=
  Host.Core.run core ops.length (s.withOps ops)

/-- R200: a run is successful if and only if `FAULT = none` at its end. -/
def RunSucceeds (ops : List HostOp) (s : State) : Prop :=
  ∃ t, runOps ops s = .next t ∧ t.fault = none

/-! ## What every step keeps -/

/-- The invariant of the machine: the raw maps are in canonical form (and so hold no cell outside the two ports), the
constant indices read their own numbers (R27, R30), and between two operations the detector retains the present snapshot
of every channel (R36, R197). -/
structure State.Inv (s : State) : Prop where
  rawCanonical : Memory.wf s.raw
  channelIndex : ∀ c, (s.chan c).index = BitVec.ofNat 3 c.val
  operatorIndex : ∀ c o, (s.oper c o).index = BitVec.ofNat 2 o.val
  detectorInSync : ∀ c : ChanIx, s.prev[c.val] = s.snapshot c

/-- The decoded fields listed here read, at all times, as the slices R74 gives of the byte last written at their address
(R52). Left out are the fields that the byte last written does not give by itself: the mode bit, which an invalid byte
leaves alone (R105); the enabled flags, since 0x28 serves six channels (R106); the timer bits where the parameter withholds
them from an invalid byte (R104); and the frequencies of channels 2 and 5 and of their operators 0, which share 0xA2 and
0xA6 by the mode (R80). -/
structure State.MirrorsRaw (s : State) : Prop where
  lfo : s.globals.lfoEnable = (s.rawByte 0 0x22).getLsbD 3 ∧ s.globals.lfoFreq = (s.rawByte 0 0x22).extractLsb' 0 3
  timerB : s.globals.timerB = s.rawByte 0 0x26
  dac : s.globals.dacEnable = (s.rawByte 0 0x2B).getLsbD 7
  timerBits : s.params.invalidModeUpdatesTimerBits = true →
    s.globals.resetB = (s.rawByte 0 0x27).getLsbD 5 ∧ s.globals.resetA = (s.rawByte 0 0x27).getLsbD 4 ∧
    s.globals.enableB = (s.rawByte 0 0x27).getLsbD 3 ∧ s.globals.enableA = (s.rawByte 0 0x27).getLsbD 2 ∧
    s.globals.loadB = (s.rawByte 0 0x27).getLsbD 1 ∧ s.globals.loadA = (s.rawByte 0 0x27).getLsbD 0
  dtMul : ∀ p slot co, (s.oper (channelAt p co) (s.params.operatorOfSlot slot)).dt
      = (s.rawByte p (regAddr 0x3 slot co)).extractLsb' 4 3 ∧
    (s.oper (channelAt p co) (s.params.operatorOfSlot slot)).mul = (s.rawByte p (regAddr 0x3 slot co)).extractLsb' 0 4
  tl : ∀ p slot co, (s.oper (channelAt p co) (s.params.operatorOfSlot slot)).tl
      = (s.rawByte p (regAddr 0x4 slot co)).extractLsb' 0 7
  ksAr : ∀ p slot co, (s.oper (channelAt p co) (s.params.operatorOfSlot slot)).ks
      = (s.rawByte p (regAddr 0x5 slot co)).extractLsb' 6 2 ∧
    (s.oper (channelAt p co) (s.params.operatorOfSlot slot)).ar = (s.rawByte p (regAddr 0x5 slot co)).extractLsb' 0 5
  amD1r : ∀ p slot co, (s.oper (channelAt p co) (s.params.operatorOfSlot slot)).am
      = (s.rawByte p (regAddr 0x6 slot co)).getLsbD 7 ∧
    (s.oper (channelAt p co) (s.params.operatorOfSlot slot)).d1r = (s.rawByte p (regAddr 0x6 slot co)).extractLsb' 0 5
  d2r : ∀ p slot co, (s.oper (channelAt p co) (s.params.operatorOfSlot slot)).d2r
      = (s.rawByte p (regAddr 0x7 slot co)).extractLsb' 0 5
  d1lRr : ∀ p slot co, (s.oper (channelAt p co) (s.params.operatorOfSlot slot)).d1l
      = (s.rawByte p (regAddr 0x8 slot co)).extractLsb' 4 4 ∧
    (s.oper (channelAt p co) (s.params.operatorOfSlot slot)).rr = (s.rawByte p (regAddr 0x8 slot co)).extractLsb' 0 4
  opFnum : ∀ p co, (s.oper (specialChannel p) (s.params.operatorOfFreq co)).fnumLo = s.rawByte p (regAddr 0xA 2 co) ∧
    (s.oper (specialChannel p) (s.params.operatorOfFreq co)).block
      = (s.rawByte p (regAddr 0xA 3 co)).extractLsb' 3 3 ∧
    (s.oper (specialChannel p) (s.params.operatorOfFreq co)).fnumHi
      = (s.rawByte p (regAddr 0xA 3 co)).extractLsb' 0 3
  fnum : ∀ p co, co ≠ 2 → (s.chan (channelAt p co)).fnumLo = s.rawByte p (regAddr 0xA 0 co) ∧
    (s.chan (channelAt p co)).block = (s.rawByte p (regAddr 0xA 1 co)).extractLsb' 3 3 ∧
    (s.chan (channelAt p co)).fnumHi = (s.rawByte p (regAddr 0xA 1 co)).extractLsb' 0 3
  fbAlg : ∀ p co, (s.chan (channelAt p co)).fb = (s.rawByte p (regAddr 0xB 0 co)).extractLsb' 3 3 ∧
    (s.chan (channelAt p co)).alg = (s.rawByte p (regAddr 0xB 0 co)).extractLsb' 0 3
  lrAmsFms : ∀ p co, (s.chan (channelAt p co)).left = (s.rawByte p (regAddr 0xB 1 co)).getLsbD 7 ∧
    (s.chan (channelAt p co)).right = (s.rawByte p (regAddr 0xB 1 co)).getLsbD 6 ∧
    (s.chan (channelAt p co)).ams = (s.rawByte p (regAddr 0xB 1 co)).extractLsb' 4 2 ∧
    (s.chan (channelAt p co)).fms = (s.rawByte p (regAddr 0xB 1 co)).extractLsb' 0 3

/-! ## Frames -/

/-- The parts of the state a frame names. -/
inductive Part where
  | globals | channels | operators | raw | fault | diag | detector | answers
deriving DecidableEq, Repr

/-- Every part but those listed is the same in both states. The parameters and the host's pending operations are no
part: no operation of the block ever changes them, so they are the same in every case. -/
def KeepsAllBut (parts : List Part) (s t : State) : Prop :=
  t.params = s.params ∧ t.pending = s.pending ∧
  (Part.globals ∉ parts → t.globals = s.globals) ∧
  (Part.channels ∉ parts → ∀ c, t.chan c = s.chan c) ∧
  (Part.operators ∉ parts → ∀ c o, t.oper c o = s.oper c o) ∧
  (Part.raw ∉ parts → ∀ p a, t.rawByte p a = s.rawByte p a) ∧
  (Part.fault ∉ parts → t.fault = s.fault) ∧
  (Part.diag ∉ parts → t.diag = s.diag) ∧
  (Part.detector ∉ parts → t.prev = s.prev ∧ t.chg = s.chg ∧ t.dumps = s.dumps) ∧
  (Part.answers ∉ parts → t.answers = s.answers)

/-- Of all 512 raw bytes, the one at `(p, a)` alone is written, and it becomes `v` (R52). -/
def StoresOnly (p : Port) (a : Addr) (v : Byte) (s t : State) : Prop :=
  ∀ q b, t.rawByte q b = if q = p ∧ b = a then v else s.rawByte q b

/-- Of the 6 channels, `c` alone is written, and it becomes `x`. -/
def WritesOnlyChannel (c : ChanIx) (x : Channel) (s t : State) : Prop :=
  ∀ d, t.chan d = if d = c then x else s.chan d

/-- Of the 24 operators, `(c, o)` alone is written, and it becomes `x`. -/
def WritesOnlyOperator (c : ChanIx) (o : OpIx) (x : Operator) (s t : State) : Prop :=
  ∀ d q, t.oper d q = if d = c ∧ q = o then x else s.oper d q

end Sys2Proof.Machine
end

