-- ==== Sys2Proof/Certificates/Slice0/Obligations.lean ====
section
/-! DEFINITION. Certificates/Slice0/Obligations.lean: the statements. Each result statement says that the class's
transaction decodes to its instruction, that the instruction answers a next state in EVERY instance that has not
faulted, what that state holds, and that everything else is as before. The parameters are part of the state, so every
statement holds for every value of them. -/

open Sys2Proof Sys2Proof.Machine

/-! ## Reset, and what every step keeps -/

/-- R230, R6: the state right after reset, and the default parameters. -/
def Obligations.ResetHoldsTheSpecifiedValues : Prop :=
  State.reset.params =
    { opAddrMap := #v[0, 1, 2, 3], opFreqMap := #v[1, 2, 3], invalidModeUpdatesTimerBits := true
      operatorEqFields := [.dt, .mul, .tl, .ks, .ar, .am, .d1r, .d2r, .d1l, .rr, .fnumLo, .fnumHi, .block, .enabled] } ∧
  State.reset.globals =
    { lfoEnable := false, lfoFreq := 0, timerB := 0, loadA := false, loadB := false, enableA := false, enableB := false
      resetA := false, resetB := false, special := false, dacEnable := false } ∧
  (∀ c, State.reset.chan c =
    { index := BitVec.ofNat 3 c.val, fnumLo := 0, fnumHi := 0, block := 0, alg := 0, fb := 0
      left := false, right := false, ams := 0, fms := 0 }) ∧
  (∀ c o, State.reset.oper c o =
    { index := BitVec.ofNat 2 o.val, dt := 0, mul := 0, tl := 0, ks := 0, ar := 0, am := false, d1r := 0, d2r := 0
      d1l := 0, rr := 0, fnumLo := 0, fnumHi := 0, block := 0, enabled := false }) ∧
  (∀ p a, State.reset.rawByte p a = 0x00) ∧
  State.reset.fault = none ∧ State.reset.diag = [] ∧
  (∀ c : ChanIx, State.reset.prev[c.val] = State.reset.snapshot c ∧ State.reset.chg[c.val] = false) ∧
  State.reset.dumps = []

/-- R231, R230: whatever the parameters and the reset values, construction meets the invariant; and the reset state meets
it, has well-formed parameters, and mirrors its raw maps. -/
def Obligations.ConstructionMeetsTheInvariants : Prop :=
  (∀ (pm : Params) (rv : ResetValues), Memory.wf rv.raw → (State.construct pm rv).Inv) ∧
  State.reset.Inv ∧ State.reset.params.WellFormed ∧ State.reset.MirrorsRaw

/-- Every step from every state that meets the invariant meets it again, and never changes the parameters. -/
def Obligations.StepKeepsTheInvariant : Prop :=
  ∀ s t : State, s.Inv → step s = .next t → t.Inv ∧ t.params = s.params

/-- The decoded fields that State.MirrorsRaw lists are the R74 slices of the bytes last written at their addresses: the
LFO, timer B and DAC fields, the timer bits where the parameter always updates them, the operator fields of groups 0x3 to
0x8, the frequencies of operators 1 to 3 of channels 2 and 5 and of channels 0, 1, 3 and 4, and the algorithm and stereo
registers. Nothing is said of the mode bit, the enabled flags, or the frequencies of channels 2 and 5 and of their
operators 0. -/
def Obligations.StepKeepsRegistersMirroringRaw : Prop :=
  ∀ s t : State, s.params.WellFormed → s.MirrorsRaw → step s = .next t → t.MirrorsRaw

/-- R31: the frequency fields of an operator change through two kinds of write only, and never in channels 0, 1, 3, 4. -/
def Obligations.OperatorFrequenciesChangeOnlyInSpecialChannels : Prop :=
  ∀ s t : State, s.params.WellFormed → step s = .next t →
    (∀ (c : ChanIx) (o : OpIx), c ≠ 2 → c ≠ 5 →
      (t.oper c o).fnumLo = (s.oper c o).fnumLo ∧ (t.oper c o).fnumHi = (s.oper c o).fnumHi ∧
      (t.oper c o).block = (s.oper c o).block) ∧
    (s.globals.special = false → ∀ c : ChanIx,
      (t.oper c 0).fnumLo = (s.oper c 0).fnumLo ∧ (t.oper c 0).fnumHi = (s.oper c 0).fnumHi ∧
      (t.oper c 0).block = (s.oper c 0).block) ∧
    (∀ (c : ChanIx) (o : OpIx),
      (t.oper c o).fnumLo ≠ (s.oper c o).fnumLo ∨ (t.oper c o).fnumHi ≠ (s.oper c o).fnumHi ∨
        (t.oper c o).block ≠ (s.oper c o).block →
      ∃ (w : Transaction) (rest : List HostOp), s.pending = .write w :: rest ∧
        c = specialChannel (Transaction.port w) ∧
        ((o = 0 ∧ s.globals.special = true ∧ (Transaction.addr w = 0xA2 ∨ Transaction.addr w = 0xA6)) ∨
         (o ≠ 0 ∧ ((0xA8 ≤ Transaction.addr w ∧ Transaction.addr w ≤ 0xAA) ∨
           (0xAC ≤ Transaction.addr w ∧ Transaction.addr w ≤ 0xAE)))))

/-! ## Decoding -/

/-- R77: the global addresses. -/
def Obligations.GlobalAddressesDecode : Prop :=
  (∀ v : Byte,
    decode (Transaction.pack 0 0x22 v) = .wrLfo v ∧ decode (Transaction.pack 0 0x26 v) = .wrTimerB v ∧
    decode (Transaction.pack 0 0x27 v) = .wrMode v ∧ decode (Transaction.pack 0 0x28 v) = .wrKey v ∧
    decode (Transaction.pack 0 0x2A v) = .wrDacData v ∧ decode (Transaction.pack 0 0x2B v) = .wrDacEn v) ∧
  (∀ (a : Addr) (v : Byte), 0x20 ≤ a → a ≤ 0x2F → decode (Transaction.pack 1 a v) = .unrecognised 1 a v) ∧
  (∀ (p : Port) (a : Addr) (v : Byte) (pm : Params) (special : Bool), 0x20 ≤ a → a ≤ 0x2F →
    Instr.target (decode (Transaction.pack p a v)) pm special = .other)

/-- R78: the operator groups, with their channel `3*p + a[1:0]` and their operator `OP_ADDR_MAP(a[3:2])`. -/
def Obligations.OperatorGroupsDecode : Prop :=
  ∀ (p : Port) (a : Addr) (v : Byte),
    (∀ co : Offset, (a.extractLsb' 0 2).toNat = co.val →
      (a.extractLsb' 4 4 = 0x3 → decode (Transaction.pack p a v) = .wrDtMul p (a.extractLsb' 2 2).toFin co v) ∧
      (a.extractLsb' 4 4 = 0x4 → decode (Transaction.pack p a v) = .wrTl p (a.extractLsb' 2 2).toFin co v) ∧
      (a.extractLsb' 4 4 = 0x5 → decode (Transaction.pack p a v) = .wrKsAr p (a.extractLsb' 2 2).toFin co v) ∧
      (a.extractLsb' 4 4 = 0x6 → decode (Transaction.pack p a v) = .wrAmD1r p (a.extractLsb' 2 2).toFin co v) ∧
      (a.extractLsb' 4 4 = 0x7 → decode (Transaction.pack p a v) = .wrD2r p (a.extractLsb' 2 2).toFin co v) ∧
      (a.extractLsb' 4 4 = 0x8 → decode (Transaction.pack p a v) = .wrD1lRr p (a.extractLsb' 2 2).toFin co v) ∧
      (0x3 ≤ a.extractLsb' 4 4 → a.extractLsb' 4 4 ≤ 0x8 → ∀ (pm : Params) (special : Bool), ∃ c : ChanIx,
        c.val = 3 * p.val + co.val ∧
        Instr.target (decode (Transaction.pack p a v)) pm special =
          .operator c (pm.opAddrMap[(a.extractLsb' 2 2).toNat]'(a.extractLsb' 2 2).isLt))) ∧
    (a.extractLsb' 0 2 = 3 → 0x3 ≤ a.extractLsb' 4 4 → a.extractLsb' 4 4 ≤ 0x8 →
      decode (Transaction.pack p a v) = .unrecognised p a v)

/-- R79: the undocumented group. -/
def Obligations.UndocumentedGroupDecodes : Prop :=
  ∀ (p : Port) (v : Byte),
    (∀ a : Addr, 0x90 ≤ a → a ≤ 0x9E →
      ∃ low : Fin 15, low.val = a.toNat - 0x90 ∧ decode (Transaction.pack p a v) = .wrUndoc9x p low v ∧
        ∀ (pm : Params) (special : Bool), Instr.target (.wrUndoc9x p low v) pm special = .other) ∧
    decode (Transaction.pack p 0x9F v) = .unrecognised p 0x9F v

/-- R80: the channel frequency sub-blocks, and the redirect of 0xA2 and 0xA6 in special mode. -/
def Obligations.ChannelFrequenciesDecode : Prop :=
  ∀ (p : Port) (v : Byte),
    (∀ (co : Offset) (pm : Params) (special : Bool), ∃ c2 c : ChanIx,
      c2.val = 3 * p.val + 2 ∧ c.val = 3 * p.val + co.val ∧
      decode (Transaction.pack p (BitVec.ofNat 8 (0xA0 + co.val)) v) = .wrFnumLo p co v ∧
      decode (Transaction.pack p (BitVec.ofNat 8 (0xA4 + co.val)) v) = .wrFnumHi p co v ∧
      Instr.target (.wrFnumLo p co v) pm special =
        (if co = 2 ∧ special = true then .operator c2 0 else .channel c) ∧
      Instr.target (.wrFnumHi p co v) pm special =
        (if co = 2 ∧ special = true then .operator c2 0 else .channel c)) ∧
    decode (Transaction.pack p 0xA3 v) = .unrecognised p 0xA3 v ∧
    decode (Transaction.pack p 0xA7 v) = .unrecognised p 0xA7 v

/-- R81: the operator frequency sub-blocks, whatever the mode, and the default `OP_FREQ_MAP`. -/
def Obligations.OperatorFrequenciesDecode : Prop :=
  ∀ (p : Port) (v : Byte),
    (∀ (co : Offset) (pm : Params) (special : Bool), ∃ c2 : ChanIx, c2.val = 3 * p.val + 2 ∧
      decode (Transaction.pack p (BitVec.ofNat 8 (0xA8 + co.val)) v) = .wrOpFnumLo p co v ∧
      decode (Transaction.pack p (BitVec.ofNat 8 (0xAC + co.val)) v) = .wrOpFnumHi p co v ∧
      Instr.target (.wrOpFnumLo p co v) pm special = .operator c2 pm.opFreqMap[co.val] ∧
      Instr.target (.wrOpFnumHi p co v) pm special = .operator c2 pm.opFreqMap[co.val]) ∧
    decode (Transaction.pack p 0xAB v) = .unrecognised p 0xAB v ∧
    decode (Transaction.pack p 0xAF v) = .unrecognised p 0xAF v ∧
    ∀ co : Offset, (State.reset.params.opFreqMap[co.val]).val = co.val + 1

/-- R82: the algorithm and stereo sub-blocks, and everything after them. -/
def Obligations.AlgorithmAndStereoDecode : Prop :=
  ∀ (p : Port) (v : Byte),
    (∀ (co : Offset) (pm : Params) (special : Bool), ∃ c : ChanIx, c.val = 3 * p.val + co.val ∧
      decode (Transaction.pack p (BitVec.ofNat 8 (0xB0 + co.val)) v) = .wrFbAlg p co v ∧
      decode (Transaction.pack p (BitVec.ofNat 8 (0xB4 + co.val)) v) = .wrLrAmsFms p co v ∧
      Instr.target (.wrFbAlg p co v) pm special = .channel c ∧
      Instr.target (.wrLrAmsFms p co v) pm special = .channel c) ∧
    (∀ a : Addr, a = 0xB3 ∨ 0xB7 ≤ a → decode (Transaction.pack p a v) = .unrecognised p a v)

/-- R84: each of the 512 selectors has exactly one class: at most one row of the table names it, and the decoder gives it
that row's class, or UNRECOGNISED where none does. -/
def Obligations.DecodeFollowsTheOpcodeTable : Prop :=
  (∀ sel : Selector, (opcodeRows.filter (·.hits sel)).length ≤ 1) ∧
  ∀ t : Transaction,
    (∀ r ∈ opcodeRows, r.hits (Transaction.selector t) = true → (decode t).mnemonic = r.mnemonic) ∧
    ((∀ r ∈ opcodeRows, r.hits (Transaction.selector t) = false) → (decode t).mnemonic = "UNRECOGNISED")

/-- R85: how many addresses of a port decode to the classes of a list. -/
def countDecoded (p : Port) (classes : List String) : Nat :=
  ((List.range 256).filter fun a =>
    classes.contains (decode (Transaction.pack p (BitVec.ofNat 8 a) 0)).mnemonic).length

/-- R85: the counts of recognised addresses. -/
def Obligations.RecognisedSelectorsAreCounted : Prop :=
  countDecoded 0 ["WR_LFO", "WR_TIMER_B", "WR_MODE", "WR_KEY", "WR_DAC_DATA", "WR_DAC_EN"] = 6 ∧
  countDecoded 1 ["WR_LFO", "WR_TIMER_B", "WR_MODE", "WR_KEY", "WR_DAC_DATA", "WR_DAC_EN"] = 0 ∧
  (∀ p : Port,
    countDecoded p ["WR_DT_MUL", "WR_TL", "WR_KS_AR", "WR_AM_D1R", "WR_D2R", "WR_D1L_RR"] = 72 ∧
    countDecoded p ["WR_UNDOC_9X"] = 15 ∧
    countDecoded p ["WR_FNUM_LO", "WR_FNUM_HI", "WR_OPFNUM_LO", "WR_OPFNUM_HI"] = 12 ∧
    countDecoded p ["WR_FB_ALG", "WR_LR_AMS_FMS"] = 6) ∧
  countDecoded 0 (opcodeRows.map (·.mnemonic)) = 111 ∧ countDecoded 1 (opcodeRows.map (·.mnemonic)) = 105 ∧
  countDecoded 0 ["UNRECOGNISED"] = 145 ∧ countDecoded 1 ["UNRECOGNISED"] = 151

/-- R70, R90: a word of each family, written out from the spec's encoding, and its transport bytes. -/
def Obligations.WrittenOutWordsDecode : Prop :=
  decode 0b0_00100111_01000101 = .wrMode 0x45 ∧
  decode 0b0_00101000_11110001 = .wrKey 0xF1 ∧
  decode 0b1_01001101_01111111 = .wrTl 1 3 1 0x7F ∧
  decode 0b0_10010011_00001111 = .wrUndoc9x 0 3 0x0F ∧
  decode 0b1_10100110_00011010 = .wrFnumHi 1 2 0x1A ∧
  decode 0b1_10110110_11000000 = .wrLrAmsFms 1 2 0xC0 ∧
  decode 0b1_00100111_01000000 = .unrecognised 1 0x27 0x40 ∧
  decodeBytes [0x52, 0xB0, 0x32, 0x66] = .ok (.wrFbAlg 0 0 0x32, [0x66]) ∧
  decodeBytes [0x53, 0xAE, 0x3F] = .ok (.wrOpFnumHi 1 2 0x3F, [])

/-- Decoding an encoded well-formed instruction gives it back, at the block and in the transport. -/
def Obligations.DecodingAnEncodedInstructionGivesItBack : Prop :=
  ∀ i : Instr, i.wellFormed = true →
    decode (encode i) = i ∧ ∀ rest : List Byte, decodeBytes (encodeBytes i ++ rest) = .ok (i, rest)

/-- Encoding a decoded transaction gives it back, so no bit of the 17 is dropped; and what a transaction decodes to is
well-formed. -/
def Obligations.EncodingADecodedTransactionGivesItBack : Prop :=
  ∀ t : Transaction, (decode t).wellFormed = true ∧ encode (decode t) = t

/-- R88, R90: what the transport's commands deliver. -/
def Obligations.TransportDeliversRegisterWrites : Prop :=
  (∀ (a v : Byte) (rest : List Byte),
    decodeBytes (0x52 :: a :: v :: rest) = .ok (decode (Transaction.pack 0 a v), rest) ∧
    decodeBytes (0x53 :: a :: v :: rest) = .ok (decode (Transaction.pack 1 a v), rest) ∧
    decodeBytes (0x66 :: rest) = .error .endTag) ∧
  ∀ (ws : List (Port × Addr × Byte)) (rest : List Byte),
    deliver (ws.flatMap (fun w => [if w.1 = 0 then 0x52 else 0x53, w.2.1, w.2.2]) ++ 0x66 :: rest) =
      .ok (ws.map fun w => HostOp.write (Transaction.pack w.1 w.2.1 w.2.2)) ∧
    deliver (ws.flatMap fun w => [if w.1 = 0 then 0x52 else 0x53, w.2.1, w.2.2]) =
      .ok (ws.map fun w => HostOp.write (Transaction.pack w.1 w.2.1 w.2.2))

/-- R91, R92: the pseudo-instructions expand to writes that reach what they name. -/
def Obligations.PseudoInstructionsReachWhatTheyName : Prop :=
  (chcode 0 = 0b000 ∧ chcode 1 = 0b001 ∧ chcode 2 = 0b010 ∧ chcode 3 = 0b100 ∧ chcode 4 = 0b101 ∧ chcode 5 = 0b110) ∧
  (∀ (c : ChanIx) (m : BitVec 4), ∃ v : Byte, keyOp c m = .write (Transaction.pack 0 0x28 v) ∧
    keyChannel v = some c ∧ v.extractLsb' 4 4 = m ∧ v.getLsbD 3 = false ∧ v.extractLsb' 0 3 = chcode c) ∧
  (∀ (c : ChanIx) (alg fb : BitVec 3), ∃ (p : Port) (co : Offset) (v : Byte),
    voiceOp c alg fb = .write (Transaction.pack p (BitVec.ofNat 8 (0xB0 + co.val)) v) ∧
    c.val = 3 * p.val + co.val ∧ v.extractLsb' 6 2 = 0 ∧ v.extractLsb' 3 3 = fb ∧ v.extractLsb' 0 3 = alg) ∧
  (∀ (pm : Params) (grp : BitVec 4) (c : ChanIx) (o : OpIx) (v : Byte), pm.WellFormed → 0x3 ≤ grp → grp ≤ 0x8 →
    ∃ t : Transaction, opRegOp pm grp c o v = some (.write t) ∧ Transaction.data t = v ∧
      (Transaction.addr t).extractLsb' 4 4 = grp ∧ ∀ special : Bool, Instr.target (decode t) pm special = .operator c o) ∧
  ∀ (on : Bool) (s : State), s.fault = none →
    specialOp on = .write (Transaction.pack 0 0x27 (if on then 0x40 else 0x00)) ∧
    ∃ t, exec (decode (Transaction.pack 0 0x27 (if on then 0x40 else 0x00))) s = .next t ∧
      t.globals = { s.globals with
        special := on, resetB := false, resetA := false, enableB := false, enableA := false
        loadB := false, loadA := false }

/-! ## The global registers (spec/40_global_registers.md) -/

/-- R100. -/
def Obligations.LfoWriteSetsEnableAndFrequency : Prop :=
  ∀ (v : Byte) (s : State), s.fault = none →
    decode (Transaction.pack 0 0x22 v) = .wrLfo v ∧
    decode (Transaction.pack 1 0x22 v) = .unrecognised 1 0x22 v ∧
    ∃ t, exec (.wrLfo v) s = .next t ∧
      t.globals = { s.globals with lfoEnable := v.getLsbD 3, lfoFreq := v.extractLsb' 0 3 } ∧
      StoresOnly 0 0x22 v s t ∧ KeepsAllBut [.globals, .raw] s t

/-- R102. -/
def Obligations.TimerBWriteSetsTheReloadValue : Prop :=
  ∀ (v : Byte) (s : State), s.fault = none →
    decode (Transaction.pack 0 0x26 v) = .wrTimerB v ∧
    ∃ t, exec (.wrTimerB v) s = .next t ∧
      t.globals = { s.globals with timerB := v } ∧
      StoresOnly 0 0x26 v s t ∧ KeepsAllBut [.globals, .raw] s t

/-- R104, R105: a legal mode pattern, 0b00 normal or 0b01 special, assigns the mode bit and the six timer bits. An invalid
one leaves the mode bit, is logged, and updates the timer bits if the parameter says so. No frequency field moves. -/
def Obligations.ModeWriteFollowsItsPattern : Prop :=
  ∀ (v : Byte) (s : State), s.fault = none →
    decode (Transaction.pack 0 0x27 v) = .wrMode v ∧
    ∃ t, exec (.wrMode v) s = .next t ∧
      (v.extractLsb' 6 2 = 0b00 ∨ v.extractLsb' 6 2 = 0b01 →
        t.globals = { s.globals with
          special := v.getLsbD 6
          resetB := v.getLsbD 5, resetA := v.getLsbD 4, enableB := v.getLsbD 3, enableA := v.getLsbD 2
          loadB := v.getLsbD 1, loadA := v.getLsbD 0 } ∧
        KeepsAllBut [.globals, .raw] s t) ∧
      (v.extractLsb' 6 2 = 0b10 ∨ v.extractLsb' 6 2 = 0b11 →
        t.globals.special = s.globals.special ∧
        t.diag = s.diag ++ [⟨.invalidModePattern, 0, 0x27, v⟩] ∧
        (s.params.invalidModeUpdatesTimerBits = true → t.globals = { s.globals with
          resetB := v.getLsbD 5, resetA := v.getLsbD 4, enableB := v.getLsbD 3, enableA := v.getLsbD 2
          loadB := v.getLsbD 1, loadA := v.getLsbD 0 }) ∧
        (s.params.invalidModeUpdatesTimerBits = false → t.globals = s.globals) ∧
        KeepsAllBut [.globals, .diag, .raw] s t) ∧
      StoresOnly 0 0x27 v s t

/-- R106, R107: a key write with a valid channel code assigns the four enabled flags of that channel, and no other field;
one with channel code 0b011 or 0b111 is a logged no-op on every operator. -/
def Obligations.KeyWriteFollowsItsChannelCode : Prop :=
  ∀ (v : Byte) (s : State), s.fault = none →
    decode (Transaction.pack 0 0x28 v) = .wrKey v ∧
    decode (Transaction.pack 1 0x28 v) = .unrecognised 1 0x28 v ∧
    ∃ t, exec (.wrKey v) s = .next t ∧
      (∀ c : ChanIx,
        v.extractLsb' 0 3 = (#v[0b000, 0b001, 0b010, 0b100, 0b101, 0b110] : Vector (BitVec 3) 6)[c.val] →
        (∀ d o, t.oper d o = if d = c then { s.oper d o with enabled := v.getLsbD (4 + o.val) } else s.oper d o) ∧
        KeepsAllBut [.operators, .raw] s t) ∧
      (v.extractLsb' 0 3 = 0b011 ∨ v.extractLsb' 0 3 = 0b111 →
        t.diag = s.diag ++ [⟨.invalidKeyChannel, 0, 0x28, v⟩] ∧ KeepsAllBut [.diag, .raw] s t) ∧
      StoresOnly 0 0x28 v s t

/-- R109: a DAC data write reaches the raw map alone. -/
def Obligations.DacDataWriteReachesTheRawMapAlone : Prop :=
  ∀ (v : Byte) (s : State), s.fault = none →
    decode (Transaction.pack 0 0x2A v) = .wrDacData v ∧
    ∃ t, exec (.wrDacData v) s = .next t ∧
      StoresOnly 0 0x2A v s t ∧ KeepsAllBut [.raw] s t

/-- R110. -/
def Obligations.DacEnableWriteSetsTheEnableBit : Prop :=
  ∀ (v : Byte) (s : State), s.fault = none →
    decode (Transaction.pack 0 0x2B v) = .wrDacEn v ∧
    ∃ t, exec (.wrDacEn v) s = .next t ∧
      t.globals = { s.globals with dacEnable := v.getLsbD 7 } ∧
      StoresOnly 0 0x2B v s t ∧ KeepsAllBut [.globals, .raw] s t

/-! ## The operator registers (spec/41_operator_registers.md) -/

/-- What the six operator classes share: the instruction of the transaction at `0x10*grp + 4*slot + co` answers a next
state in which operator `OP_ADDR_MAP(slot)` of channel `3*p + co` has become `set` of what it was, the data byte is in
the raw map, and everything else is as before. -/
def WritesOneOperator (grp : Nat) (instr : Port → Slot → Offset → Byte → Instr) (set : Byte → Operator → Operator) :
    Prop :=
  ∀ (p : Port) (slot : Slot) (co : Offset) (v : Byte) (s : State), s.fault = none →
    decode (Transaction.pack p (BitVec.ofNat 8 (16 * grp + 4 * slot.val + co.val)) v) = instr p slot co v ∧
    ∃ (t : State) (c : ChanIx), c.val = 3 * p.val + co.val ∧ exec (instr p slot co v) s = .next t ∧
      WritesOnlyOperator c s.params.opAddrMap[slot.val] (set v (s.oper c s.params.opAddrMap[slot.val])) s t ∧
      StoresOnly p (BitVec.ofNat 8 (16 * grp + 4 * slot.val + co.val)) v s t ∧ KeepsAllBut [.operators, .raw] s t

/-- R130. -/
def Obligations.DtMulWriteSetsDetuneAndMultiply : Prop :=
  WritesOneOperator 0x3 .wrDtMul fun v op => { op with dt := v.extractLsb' 4 3, mul := v.extractLsb' 0 4 }

/-- R132. -/
def Obligations.TlWriteSetsTotalLevel : Prop :=
  WritesOneOperator 0x4 .wrTl fun v op => { op with tl := v.extractLsb' 0 7 }

/-- R134. -/
def Obligations.KsArWriteSetsScalingAndAttack : Prop :=
  WritesOneOperator 0x5 .wrKsAr fun v op => { op with ks := v.extractLsb' 6 2, ar := v.extractLsb' 0 5 }

/-- R136. -/
def Obligations.AmD1rWriteSetsModulationAndDecay : Prop :=
  WritesOneOperator 0x6 .wrAmD1r fun v op => { op with am := v.getLsbD 7, d1r := v.extractLsb' 0 5 }

/-- R138. -/
def Obligations.D2rWriteSetsSecondDecay : Prop :=
  WritesOneOperator 0x7 .wrD2r fun v op => { op with d2r := v.extractLsb' 0 5 }

/-- R140. -/
def Obligations.D1lRrWriteSetsAmplitudeAndRelease : Prop :=
  WritesOneOperator 0x8 .wrD1lRr fun v op => { op with d1l := v.extractLsb' 4 4, rr := v.extractLsb' 0 4 }

/-- R142: a write to 0x90-0x9E is stored raw and logged, and changes nothing decoded. -/
def Obligations.UndocumentedWriteIsStoredAndLoggedOnly : Prop :=
  ∀ (p : Port) (low : Fin 15) (v : Byte) (s : State), s.fault = none →
    decode (Transaction.pack p (BitVec.ofNat 8 (0x90 + low.val)) v) = .wrUndoc9x p low v ∧
    ∃ t, exec (.wrUndoc9x p low v) s = .next t ∧
      t.diag = s.diag ++ [⟨.unmodelledRegister, p, BitVec.ofNat 8 (0x90 + low.val), v⟩] ∧
      StoresOnly p (BitVec.ofNat 8 (0x90 + low.val)) v s t ∧ KeepsAllBut [.diag, .raw] s t

/-! ## The channel registers (spec/42_channel_registers.md) -/

/-- R160, R167: the frequency LSB of a channel, or of operator 0 of channel 2 or 5 in special mode. -/
def Obligations.FnumLoWriteFollowsTheMode : Prop :=
  ∀ (p : Port) (co : Offset) (v : Byte) (s : State), s.fault = none →
    decode (Transaction.pack p (BitVec.ofNat 8 (0xA0 + co.val)) v) = .wrFnumLo p co v ∧
    ∃ (t : State) (c : ChanIx), c.val = 3 * p.val + co.val ∧ exec (.wrFnumLo p co v) s = .next t ∧
      (co = 2 ∧ s.globals.special = true →
        WritesOnlyOperator c 0 { s.oper c 0 with fnumLo := v } s t ∧ KeepsAllBut [.operators, .raw] s t) ∧
      (¬(co = 2 ∧ s.globals.special = true) →
        WritesOnlyChannel c { s.chan c with fnumLo := v } s t ∧ KeepsAllBut [.channels, .raw] s t) ∧
      StoresOnly p (BitVec.ofNat 8 (0xA0 + co.val)) v s t

/-- R162, R167: the frequency MSB and octave of a channel, or of operator 0 of channel 2 or 5 in special mode. -/
def Obligations.FnumHiWriteFollowsTheMode : Prop :=
  ∀ (p : Port) (co : Offset) (v : Byte) (s : State), s.fault = none →
    decode (Transaction.pack p (BitVec.ofNat 8 (0xA4 + co.val)) v) = .wrFnumHi p co v ∧
    ∃ (t : State) (c : ChanIx), c.val = 3 * p.val + co.val ∧ exec (.wrFnumHi p co v) s = .next t ∧
      (co = 2 ∧ s.globals.special = true →
        WritesOnlyOperator c 0 { s.oper c 0 with block := v.extractLsb' 3 3, fnumHi := v.extractLsb' 0 3 } s t ∧
        KeepsAllBut [.operators, .raw] s t) ∧
      (¬(co = 2 ∧ s.globals.special = true) →
        WritesOnlyChannel c { s.chan c with block := v.extractLsb' 3 3, fnumHi := v.extractLsb' 0 3 } s t ∧
        KeepsAllBut [.channels, .raw] s t) ∧
      StoresOnly p (BitVec.ofNat 8 (0xA4 + co.val)) v s t

/-- R164: the frequency LSB of an operator of channel 2 or 5, whatever the mode. -/
def Obligations.OpFnumLoWriteIgnoresTheMode : Prop :=
  ∀ (p : Port) (co : Offset) (v : Byte) (s : State), s.fault = none →
    decode (Transaction.pack p (BitVec.ofNat 8 (0xA8 + co.val)) v) = .wrOpFnumLo p co v ∧
    ∃ (t : State) (c : ChanIx), c.val = 3 * p.val + 2 ∧ exec (.wrOpFnumLo p co v) s = .next t ∧
      (s.params.WellFormed → s.params.opFreqMap[co.val] ≠ 0) ∧
      WritesOnlyOperator c s.params.opFreqMap[co.val]
        { s.oper c s.params.opFreqMap[co.val] with fnumLo := v } s t ∧
      StoresOnly p (BitVec.ofNat 8 (0xA8 + co.val)) v s t ∧ KeepsAllBut [.operators, .raw] s t

/-- R166: the frequency MSB and octave of an operator of channel 2 or 5, whatever the mode. -/
def Obligations.OpFnumHiWriteIgnoresTheMode : Prop :=
  ∀ (p : Port) (co : Offset) (v : Byte) (s : State), s.fault = none →
    decode (Transaction.pack p (BitVec.ofNat 8 (0xAC + co.val)) v) = .wrOpFnumHi p co v ∧
    ∃ (t : State) (c : ChanIx), c.val = 3 * p.val + 2 ∧ exec (.wrOpFnumHi p co v) s = .next t ∧
      (s.params.WellFormed → s.params.opFreqMap[co.val] ≠ 0) ∧
      WritesOnlyOperator c s.params.opFreqMap[co.val]
        { s.oper c s.params.opFreqMap[co.val] with block := v.extractLsb' 3 3, fnumHi := v.extractLsb' 0 3 } s t ∧
      StoresOnly p (BitVec.ofNat 8 (0xAC + co.val)) v s t ∧ KeepsAllBut [.operators, .raw] s t

/-- R170. -/
def Obligations.FbAlgWriteSetsFeedbackAndAlgorithm : Prop :=
  ∀ (p : Port) (co : Offset) (v : Byte) (s : State), s.fault = none →
    decode (Transaction.pack p (BitVec.ofNat 8 (0xB0 + co.val)) v) = .wrFbAlg p co v ∧
    ∃ (t : State) (c : ChanIx), c.val = 3 * p.val + co.val ∧ exec (.wrFbAlg p co v) s = .next t ∧
      WritesOnlyChannel c { s.chan c with fb := v.extractLsb' 3 3, alg := v.extractLsb' 0 3 } s t ∧
      StoresOnly p (BitVec.ofNat 8 (0xB0 + co.val)) v s t ∧ KeepsAllBut [.channels, .raw] s t

/-- R172. -/
def Obligations.LrAmsFmsWriteSetsStereoAndSensitivity : Prop :=
  ∀ (p : Port) (co : Offset) (v : Byte) (s : State), s.fault = none →
    decode (Transaction.pack p (BitVec.ofNat 8 (0xB4 + co.val)) v) = .wrLrAmsFms p co v ∧
    ∃ (t : State) (c : ChanIx), c.val = 3 * p.val + co.val ∧ exec (.wrLrAmsFms p co v) s = .next t ∧
      WritesOnlyChannel c { s.chan c with
        left := v.getLsbD 7, right := v.getLsbD 6, ams := v.extractLsb' 4 2, fms := v.extractLsb' 0 3 } s t ∧
      StoresOnly p (BitVec.ofNat 8 (0xB4 + co.val)) v s t ∧ KeepsAllBut [.channels, .raw] s t

/-! ## Unrecognised selectors -/

/-- R86: the selectors no class names are exactly those of its list, and a write to one is stored raw and logged. -/
def Obligations.UnrecognisedWriteIsLoggedOnly : Prop :=
  (∀ (p : Port) (a : Addr) (v : Byte),
    (decode (Transaction.pack p a v) = .unrecognised p a v ↔
      ((p = 0 ∧ (a ≤ 0x21 ∨ a = 0x23 ∨ a = 0x24 ∨ a = 0x25 ∨ a = 0x29 ∨ (0x2C ≤ a ∧ a ≤ 0x2F))) ∨
       (p = 1 ∧ a ≤ 0x2F) ∨
       (0x30 ≤ a ∧ a ≤ 0x8F ∧ a.extractLsb' 0 2 = 3) ∨ a = 0x9F ∨
       a = 0xA3 ∨ a = 0xA7 ∨ a = 0xAB ∨ a = 0xAF ∨ a = 0xB3 ∨ 0xB7 ≤ a))) ∧
  ∀ (p : Port) (a : Addr) (v : Byte) (s : State), s.fault = none →
    ∃ t, exec (.unrecognised p a v) s = .next t ∧
      t.diag = s.diag ++ [⟨.unrecognisedRegister, p, a, v⟩] ∧
      StoresOnly p a v s t ∧ KeepsAllBut [.diag, .raw] s t

/-! ## One step -/

/-- A step with a write pending is exec of the decoded instruction on the state without that write, and then the detector
where exec answered a next state; so it is for an encoded instruction, and for a table word that withFetchWord places
(the model's choice, log entries 2 and 8). With nothing pending (the model's convention, log entry 3) it leaves the state
as it is. -/
def Obligations.StepRunsTheDecodedInstruction : Prop :=
  (∀ (s : State) (w : Transaction) (rest : List HostOp), s.pending = .write w :: rest →
    step s = thenDetect (exec (decode w) { s with pending := rest })) ∧
  (∀ (s : State) (i : Instr) (rest : List HostOp), i.wellFormed = true → s.pending = .write (encode i) :: rest →
    step s = thenDetect (exec i { s with pending := rest })) ∧
  (∀ (s : State) (nbits w : Nat) (i : Instr), decodeTableWord nbits w = some i →
    step (s.withFetchWord nbits w) = thenDetect (exec i s)) ∧
  (∀ t : State, thenDetect (.next t) = .next (detect t)) ∧ (∀ f : Fault, thenDetect (.fault f) = .fault f) ∧
  (∀ s : State, s.fault = none → s.pending = [] → step s = .next s)

/-- R52, R53: every write of every address completes, stores its byte at its own port and address and no other, and never
faults. -/
def Obligations.EveryWriteCompletesAndStoresItsByte : Prop :=
  ∀ (s : State) (w : Transaction) (rest : List HostOp), s.fault = none → s.pending = .write w :: rest →
    ∃ t, step s = .next t ∧ t.fault = none ∧ t.pending = rest ∧ t.answers = s.answers ∧
      StoresOnly (Transaction.port w) (Transaction.addr w) (Transaction.data w) s t

/-- R211, R213: the events a write emits, at most one: by its selector first, then by its data. -/
def expectedEvents (w : Transaction) : List DiagEvent :=
  let p := Transaction.port w
  let a := Transaction.addr w
  let v := Transaction.data w
  if unrecognisedSelector p a then [⟨.unrecognisedRegister, p, a, v⟩]
  else if 0x90 ≤ a ∧ a ≤ 0x9E then [⟨.unmodelledRegister, p, a, v⟩]
  else if p = 0 ∧ a = 0x28 ∧ (v.extractLsb' 0 3 = 0b011 ∨ v.extractLsb' 0 3 = 0b111) then
    [⟨.invalidKeyChannel, 0, 0x28, v⟩]
  else if p = 0 ∧ a = 0x27 ∧ (v.extractLsb' 6 2 = 0b10 ∨ v.extractLsb' 6 2 = 0b11) then
    [⟨.invalidModePattern, 0, 0x27, v⟩]
  else []

/-- R211, R213: every write appends exactly the events of its cause, which are at most one; and the codes' numbers. -/
def Obligations.WriteEmitsTheDiagnosticOfItsCause : Prop :=
  (∀ (s : State) (w : Transaction) (rest : List HostOp), s.fault = none → s.pending = .write w :: rest →
    ∃ t, step s = .next t ∧ t.diag = s.diag ++ expectedEvents w ∧ (expectedEvents w).length ≤ 1) ∧
  DiagCode.number .unrecognisedRegister = 1 ∧ DiagCode.number .unmodelledRegister = 2 ∧
  DiagCode.number .invalidKeyChannel = 3 ∧ DiagCode.number .invalidModePattern = 4

/-- R35, R36: the diagnostic output, the detector's output and the host's answers only ever grow at their end. -/
def Obligations.OutputsOnlyGrow : Prop :=
  ∀ s t : State, step s = .next t →
    (∃ l, t.diag = s.diag ++ l) ∧ (∃ l, t.dumps = s.dumps ++ l) ∧ (∃ l, t.answers = s.answers ++ l)

/-! ## Queries and faults -/

/-- R190, R192: the channel query. -/
def Obligations.ChannelQueryReturnsTheSnapshotOrFaults : Prop :=
  ∀ (s : State) (i : Nat) (rest : List HostOp), s.fault = none → s.pending = .channel i :: rest →
    ∃ t, step s = .next t ∧
      (6 ≤ i → t = { s with pending := rest, fault := some .channelIndexOutOfBounds }) ∧
      (∀ c : ChanIx, c.val = i → ∃ snap : ChannelSnapshot,
        snap.toChannel = s.chan c ∧ (∀ o : OpIx, snap.ops[o.val] = s.oper c o) ∧
        t = { s with pending := rest, answers := s.answers ++ [.channel snap] })

/-- R191, R193, R216: the operator query, with the channel check first. -/
def Obligations.OperatorQueryChecksTheChannelFirst : Prop :=
  ∀ (s : State) (i j : Nat) (rest : List HostOp), s.fault = none → s.pending = .operator i j :: rest →
    ∃ t, step s = .next t ∧
      (6 ≤ i → t = { s with pending := rest, fault := some .channelIndexOutOfBounds }) ∧
      (i < 6 → 4 ≤ j → t = { s with pending := rest, fault := some .operatorIndexOutOfBounds }) ∧
      (∀ (c : ChanIx) (o : OpIx), c.val = i → o.val = j →
        t = { s with pending := rest, answers := s.answers ++ [.operator (s.oper c o)] })

/-- R58: the raw read returns the byte last written and has no side effect. -/
def Obligations.RawReadReturnsTheByte : Prop :=
  ∀ (s : State) (p : Port) (a : Addr) (rest : List HostOp), s.fault = none → s.pending = .rawRead p a :: rest →
    step s = .next { s with pending := rest, answers := s.answers ++ [.raw (s.rawByte p a)] }

/-- R215: a fault is fatal and sticky: a step that raises one changes nothing else and returns nothing, and a faulted
instance takes no write and no query. That a raw read, and the step with nothing pending, stop in it too is the model's
choice (log entry 5, DEDUCED: R58 says that a raw read never faults, and the model reads R215 as the stronger). -/
def Obligations.FaultIsFatalAndSticky : Prop :=
  (∀ (s t : State) (code : FaultCode), step s = .next t → t.fault = some code →
    ∃ op rest, s.pending = op :: rest ∧ t = { s with pending := rest, fault := some code }) ∧
  ∀ (s : State) (code : FaultCode), s.fault = some code →
    step s = .fault (.halted code) ∧ (∀ i, exec i s = .fault (.halted code)) ∧
    (∀ op, takeOp op s = .fault (.halted code))

/-- R214: only an out-of-range query raises a fault, and it raises the code of its cause; and the codes' numbers. -/
def Obligations.OnlyOutOfRangeQueriesFault : Prop :=
  (∀ s t : State, step s = .next t →
    (t.fault = some .channelIndexOutOfBounds ↔
      (∃ i rest, s.pending = .channel i :: rest ∧ 6 ≤ i) ∨
      (∃ i j rest, s.pending = .operator i j :: rest ∧ 6 ≤ i)) ∧
    (t.fault = some .operatorIndexOutOfBounds ↔
      ∃ i j rest, s.pending = .operator i j :: rest ∧ i < 6 ∧ 4 ≤ j)) ∧
  FaultCode.number .channelIndexOutOfBounds = 1 ∧ FaultCode.number .operatorIndexOutOfBounds = 2

/-! ## Whole-machine rules -/

/-- R59: a write taken a second time in a row leaves the interpreter's state as it is, but for emitting its diagnostic
again. -/
def Obligations.WritesAreIdempotent : Prop :=
  ∀ (i : Instr) (s t u : State), exec i s = .next t → exec i t = .next u →
    u = { t with diag := u.diag } ∧ ∃ events, t.diag = s.diag ++ events ∧ u.diag = t.diag ++ events

/-- One field of the globals under a write taken in two states: kept in both, or given the same value in both. -/
def KeptOrSame {α : Type} (field : Globals → α) (s s' t t' : State) : Prop :=
  field t.globals = field s.globals ∧ field t'.globals = field s'.globals ∨ field t.globals = field t'.globals

/-- R24, R33, R35: what a write does does not depend on the raw maps, the timer fields, the global fields other than the
mode bit, the diagnostic output or the detector. Two states that agree on the parameters, the channels, the operators and
the mode bit, and on nothing else, are left with the same channels, operators and mode bit, with each global field kept or
given the same value in both, and with the same events emitted. -/
def Obligations.WritesReadNoRawTimerOrDiagnosticState : Prop :=
  ∀ (i : Instr) (s s' t t' : State),
    s.params = s'.params → s.channels = s'.channels → s.operators = s'.operators →
    s.globals.special = s'.globals.special → exec i s = .next t → exec i s' = .next t' →
    t.channels = t'.channels ∧ t.operators = t'.operators ∧ t.globals.special = t'.globals.special ∧
    KeptOrSame Globals.lfoEnable s s' t t' ∧ KeptOrSame Globals.lfoFreq s s' t t' ∧
    KeptOrSame Globals.timerB s s' t t' ∧ KeptOrSame Globals.loadA s s' t t' ∧ KeptOrSame Globals.loadB s s' t t' ∧
    KeptOrSame Globals.enableA s s' t t' ∧ KeptOrSame Globals.enableB s s' t t' ∧
    KeptOrSame Globals.resetA s s' t t' ∧ KeptOrSame Globals.resetB s s' t t' ∧
    KeptOrSame Globals.dacEnable s s' t t' ∧
    ∃ events, t.diag = s.diag ++ events ∧ t'.diag = s'.diag ++ events

/-- R23, R83: `G.special` is read by writes to 0xA2 and 0xA6 alone: any other write does the same under both modes. -/
def Obligations.OnlyOffsetTwoFrequencyWritesReadTheMode : Prop :=
  ∀ (w : Transaction) (b : Bool) (s t t' : State),
    Transaction.addr w ≠ 0xA2 → Transaction.addr w ≠ 0xA6 →
    exec (decode w) s = .next t →
    exec (decode w) { s with globals := { s.globals with special := b } } = .next t' →
    t' = { t with globals := { t.globals with special := t'.globals.special } } ∧
    (t'.globals.special = t.globals.special ∨ (t.globals.special = s.globals.special ∧ t'.globals.special = b))

/-- R236: a mode write governs where the next write to 0xA2 or 0xA6 goes, and moves no stored frequency itself. -/
def Obligations.ModeWriteGovernsLaterFrequencyWrites : Prop :=
  ∀ (v w : Byte) (p : Port) (s : State), s.fault = none →
    v.extractLsb' 6 2 = 0b00 ∨ v.extractLsb' 6 2 = 0b01 →
    ∃ (t lo hi : State) (c : ChanIx), c.val = 3 * p.val + 2 ∧
      exec (.wrMode v) s = .next t ∧ t.channels = s.channels ∧ t.operators = s.operators ∧
      exec (.wrFnumLo p 2 w) t = .next lo ∧ exec (.wrFnumHi p 2 w) t = .next hi ∧
      (v.extractLsb' 6 2 = 0b01 →
        WritesOnlyOperator c 0 { s.oper c 0 with fnumLo := w } s lo ∧ lo.channels = s.channels ∧
        WritesOnlyOperator c 0 { s.oper c 0 with block := w.extractLsb' 3 3, fnumHi := w.extractLsb' 0 3 } s hi ∧
        hi.channels = s.channels) ∧
      (v.extractLsb' 6 2 = 0b00 →
        WritesOnlyChannel c { s.chan c with fnumLo := w } s lo ∧ lo.operators = s.operators ∧
        WritesOnlyChannel c { s.chan c with block := w.extractLsb' 3 3, fnumHi := w.extractLsb' 0 3 } s hi ∧
        hi.operators = s.operators)

/-- R237: an MSB/octave write (0xA4-0xA6, 0xAC-0xAE) and an LSB write (0xA0-0xA2, 0xA8-0xAA) give the same state in
either order, whichever they are. -/
def Obligations.FrequencyWritesCommute : Prop :=
  ∀ (p q : Port) (co co' : Offset) (v w : Byte) (hi lo : Instr) (s : State), s.fault = none → Memory.wf s.raw →
    hi = .wrFnumHi p co v ∨ hi = .wrOpFnumHi p co v → lo = .wrFnumLo q co' w ∨ lo = .wrOpFnumLo q co' w →
    ∃ t u x, exec hi s = .next t ∧ exec lo t = .next x ∧ exec lo s = .next u ∧ exec hi u = .next x

/-- The one case in which the order of two writes matters (R236): the first is a mode byte of a legal pattern that changes
`G.special`, and the second a frequency byte whose target that bit decides. -/
def OrderMatters (s : State) (w x : Transaction) : Prop :=
  Transaction.selector w = 0x027 ∧
  ((Transaction.data w).extractLsb' 6 2 = 0b00 ∨ (Transaction.data w).extractLsb' 6 2 = 0b01) ∧
  (Transaction.data w).getLsbD 6 ≠ s.globals.special ∧
  (Transaction.addr x = 0xA2 ∨ Transaction.addr x = 0xA6)

/-- R236: "This is the one order dependence among writes to different addresses". Any other two writes to different
selectors give the same state in either order, but for the order of their two diagnostics. -/
def Obligations.OtherWritesToDifferentAddressesCommute : Prop :=
  ∀ (w x : Transaction) (s : State), s.fault = none → Memory.wf s.raw → s.params.WellFormed →
    Transaction.selector w ≠ Transaction.selector x → ¬OrderMatters s w x → ¬OrderMatters s x w →
    ∃ t u a b, exec (decode w) s = .next t ∧ exec (decode x) t = .next a ∧
      exec (decode x) s = .next u ∧ exec (decode w) u = .next b ∧
      b = { a with diag := b.diag } ∧ a.diag = s.diag ++ expectedEvents w ++ expectedEvents x ∧
      b.diag = s.diag ++ expectedEvents x ++ expectedEvents w

/-- R56, R200, R215: a sequence of writes is taken one by one in its order, always succeeds, and is composed of its
parts. -/
def Obligations.RunsOfWritesSucceedAndCompose : Prop :=
  (∀ (ws : List Transaction) (s : State), s.fault = none → RunSucceeds (ws.map HostOp.write) s) ∧
  (∀ (xs ys : List HostOp) (s : State), s.pending = [] →
    (∀ t, runOps xs s = .next t → t.pending = [] ∧ runOps (xs ++ ys) s = runOps ys t) ∧
    (∀ f, runOps xs s = .fault f → runOps (xs ++ ys) s = .fault f))

/-! ## Snapshots and the preset-change detector -/

/-- R195, R196: channel snapshots are compared on the index, the algorithm, the feedback and the four operators, and
operators on the fields of the parameter alone; all 14 fields are compared by default. -/
def Obligations.SnapshotEqualityComparesTheListedParts : Prop :=
  (∀ (fields : List OperatorField) (x y : ChannelSnapshot),
    chEq fields x y = true ↔
      x.index = y.index ∧ x.alg = y.alg ∧ x.fb = y.fb ∧
      ∀ k : OpIx, opEq fields x.ops[k.val] y.ops[k.val] = true) ∧
  (∀ (fields : List OperatorField) (x y : OperatorSnapshot),
    opEq fields x y = true ↔
      (.dt ∈ fields → x.dt = y.dt) ∧ (.mul ∈ fields → x.mul = y.mul) ∧ (.tl ∈ fields → x.tl = y.tl) ∧
      (.ks ∈ fields → x.ks = y.ks) ∧ (.ar ∈ fields → x.ar = y.ar) ∧ (.am ∈ fields → x.am = y.am) ∧
      (.d1r ∈ fields → x.d1r = y.d1r) ∧ (.d2r ∈ fields → x.d2r = y.d2r) ∧ (.d1l ∈ fields → x.d1l = y.d1l) ∧
      (.rr ∈ fields → x.rr = y.rr) ∧ (.fnumLo ∈ fields → x.fnumLo = y.fnumLo) ∧
      (.fnumHi ∈ fields → x.fnumHi = y.fnumHi) ∧ (.block ∈ fields → x.block = y.block) ∧
      (.enabled ∈ fields → x.enabled = y.enabled)) ∧
  ∀ x y : OperatorSnapshot, x.index = y.index →
    (opEq State.reset.params.operatorEqFields x y = true ↔ x = y)

/-- R197: after every write the detector compares each channel's present snapshot with the retained one, dumps the
retained one where a change follows a write without one, in channel order, and retains the present one. -/
def Obligations.DetectorRunsAfterEveryWrite : Prop :=
  ∀ (s : State) (w : Transaction) (rest : List HostOp), s.fault = none → s.pending = .write w :: rest →
    ∃ t u, exec (decode w) { s with pending := rest } = .next t ∧ step s = .next u ∧
      (∀ c : ChanIx, u.prev[c.val] = t.snapshot c ∧
        u.chg[c.val] = !chEq s.params.operatorEqFields (t.snapshot c) s.prev[c.val]) ∧
      u.dumps = s.dumps ++
        (([0, 1, 2, 3, 4, 5] : List ChanIx).filter fun c =>
          !chEq s.params.operatorEqFields (t.snapshot c) s.prev[c.val] && !s.chg[c.val]).map
          (fun c => (c, s.prev[c.val])) ∧
      u = { t with prev := u.prev, chg := u.chg, dumps := u.dumps }

/-- R198: a write that leaves every channel and operator as it was ends every run of changes and dumps nothing: an
unrecognised or undocumented write, a global write other than a key write, a key write with an invalid code, and a second
write of the same byte. -/
def Obligations.WriteThatChangesNothingEndsEveryRunOfChanges : Prop :=
  ∀ (s : State) (w : Transaction) (rest : List HostOp), s.Inv → s.fault = none → s.pending = .write w :: rest →
    (∀ t, exec (decode w) s = .next t → t.channels = s.channels → t.operators = s.operators →
      ∃ u, step s = .next u ∧ (∀ c : ChanIx, u.chg[c.val] = false) ∧ u.dumps = s.dumps ∧ u.prev = s.prev) ∧
    (unrecognisedSelector (Transaction.port w) (Transaction.addr w) = true ∨
      (0x20 ≤ Transaction.addr w ∧ Transaction.addr w ≤ 0x27) ∨ (0x29 ≤ Transaction.addr w ∧ Transaction.addr w ≤ 0x2F) ∨
      (Transaction.addr w = 0x28 ∧ (Transaction.data w).extractLsb' 0 2 = 0b11) ∨
      (0x90 ≤ Transaction.addr w ∧ Transaction.addr w ≤ 0x9F) →
      ∃ u, step s = .next u ∧ (∀ c : ChanIx, u.chg[c.val] = false) ∧ u.dumps = s.dumps ∧ u.prev = s.prev)
end

