-- ==== Sys2Proof/Laws/Bits.lean ====
section
/-! SUPPORT. Laws/Bits.lean: what packing and unpacking a transaction or an address gives back, and that the data byte
does not take part in the decode. -/

namespace Sys2Proof

theorem Transaction.toNat_pack (p : Port) (a : Addr) (v : Byte) :
    (Transaction.pack p a v).toNat = 2 ^ 16 * p.val + 2 ^ 8 * a.toNat + v.toNat := by
  have hp := p.isLt
  have ha := a.isLt
  have hv := v.isLt
  simp only [Transaction.pack, BitVec.toNat_ofNat]
  omega

@[simp] theorem Transaction.data_pack (p : Port) (a : Addr) (v : Byte) :
    Transaction.data (Transaction.pack p a v) = v := by
  apply BitVec.eq_of_toNat_eq
  have hv := v.isLt
  simp only [Transaction.data, BitVec.extractLsb'_toNat, Transaction.toNat_pack, Nat.shiftRight_eq_div_pow]
  omega

@[simp] theorem Transaction.addr_pack (p : Port) (a : Addr) (v : Byte) :
    Transaction.addr (Transaction.pack p a v) = a := by
  apply BitVec.eq_of_toNat_eq
  have ha := a.isLt
  have hv := v.isLt
  simp only [Transaction.addr, BitVec.extractLsb'_toNat, Transaction.toNat_pack, Nat.shiftRight_eq_div_pow]
  omega

theorem Transaction.val_port (t : Transaction) : (Transaction.port t).val = t.toNat / 2 ^ 16 % 2 := by
  show (t.extractLsb' 16 1).toNat = _
  simp only [BitVec.extractLsb'_toNat, Nat.shiftRight_eq_div_pow, Nat.pow_one]

@[simp] theorem Transaction.port_pack (p : Port) (a : Addr) (v : Byte) :
    Transaction.port (Transaction.pack p a v) = p := by
  apply Fin.ext
  have hp := p.isLt
  have ha := a.isLt
  have hv := v.isLt
  rw [Transaction.val_port, Transaction.toNat_pack]
  omega

/-- A transaction is its three fields: none of the 17 bits is dropped (R70). -/
@[simp] theorem Transaction.pack_fields (t : Transaction) :
    Transaction.pack (Transaction.port t) (Transaction.addr t) (Transaction.data t) = t := by
  apply BitVec.eq_of_toNat_eq
  have ht := t.isLt
  rw [Transaction.toNat_pack, Transaction.val_port]
  simp only [Transaction.addr, Transaction.data, BitVec.extractLsb'_toNat, Nat.shiftRight_eq_div_pow]
  omega

@[simp] theorem decode_pack (p : Port) (a : Addr) (v : Byte) :
    decode (Transaction.pack p a v) = decodeSelector p a v := by
  simp [decode]

@[simp] theorem slotOf_regAddr (grp : Fin 16) (slot : Slot) (co : Offset) : slotOf (regAddr grp slot co) = slot := by
  revert grp slot co; decide

@[simp] theorem offsetOf_regAddr (grp : Fin 16) (slot : Slot) (co : Offset) :
    offsetOf (regAddr grp slot co) = some co := by
  revert grp slot co; decide

@[simp] theorem groupOf_regAddr (grp : Fin 16) (slot : Slot) (co : Offset) :
    groupOf (regAddr grp slot co) = grp.val := by
  revert grp slot co; decide

theorem regAddr_inj {grp grp' : Fin 16} {slot slot' : Slot} {co co' : Offset}
    (h : regAddr grp slot co = regAddr grp' slot' co') : grp = grp' ∧ slot = slot' ∧ co = co' := by
  refine ⟨Fin.ext ?_, ?_, ?_⟩
  · simpa using congrArg groupOf h
  · simpa using congrArg slotOf h
  · simpa using congrArg offsetOf h

/-! ## The data byte takes no part in the decode -/

/-- The same write with another data byte. -/
def Instr.withData (i : Instr) (v : Byte) : Instr :=
  match i with
  | .wrLfo _ => .wrLfo v
  | .wrTimerB _ => .wrTimerB v
  | .wrMode _ => .wrMode v
  | .wrKey _ => .wrKey v
  | .wrDacData _ => .wrDacData v
  | .wrDacEn _ => .wrDacEn v
  | .wrDtMul p slot co _ => .wrDtMul p slot co v
  | .wrTl p slot co _ => .wrTl p slot co v
  | .wrKsAr p slot co _ => .wrKsAr p slot co v
  | .wrAmD1r p slot co _ => .wrAmD1r p slot co v
  | .wrD2r p slot co _ => .wrD2r p slot co v
  | .wrD1lRr p slot co _ => .wrD1lRr p slot co v
  | .wrUndoc9x p low _ => .wrUndoc9x p low v
  | .wrFnumLo p co _ => .wrFnumLo p co v
  | .wrFnumHi p co _ => .wrFnumHi p co v
  | .wrOpFnumLo p co _ => .wrOpFnumLo p co v
  | .wrOpFnumHi p co _ => .wrOpFnumHi p co v
  | .wrFbAlg p co _ => .wrFbAlg p co v
  | .wrLrAmsFms p co _ => .wrLrAmsFms p co v
  | .unrecognised p a _ => .unrecognised p a v

/-- The data byte never picks the class (R70): the instruction of a selector is the same for every data byte. -/
theorem decodeSelector_data (p : Port) (a : Addr) (v w : Byte) :
    decodeSelector p a v = (decodeSelector p a w).withData v := by
  have hop : ∀ cls : Port → Slot → Offset → Byte → Instr,
      (∀ slot co, (cls p slot co w).withData v = cls p slot co v) →
      decodeOperatorGroup cls p a v = (decodeOperatorGroup cls p a w).withData v := by
    intro cls h
    simp only [decodeOperatorGroup]
    cases offsetOf a
    · rfl
    · exact (h _ _).symm
  simp only [decodeSelector]
  split
  · simp only [decodeGlobal]; split
    · split <;> rfl
    · rfl
  all_goals first
    | exact hop _ fun _ _ => rfl
    | rfl
    | (simp only [decodeUndocumented]; split <;> rfl)
    | (simp only [decodeFrequency]; split
       · split <;> rfl
       · rfl)
    | (simp only [decodeVoice]; split
       · split <;> rfl
       · rfl)


@[simp] theorem Instr.port_withData (i : Instr) (v : Byte) : (i.withData v).port = i.port := by cases i <;> rfl
@[simp] theorem Instr.addr_withData (i : Instr) (v : Byte) : (i.withData v).addr = i.addr := by cases i <;> rfl
@[simp] theorem Instr.data_withData (i : Instr) (v : Byte) : (i.withData v).data = v := by cases i <;> rfl
@[simp] theorem Instr.wellFormed_withData (i : Instr) (v : Byte) : (i.withData v).wellFormed = i.wellFormed := by cases i <;> rfl


end Sys2Proof
end

