-- ==== Sys2Proof/Laws/Memory.lean ====
section
/-! SUPPORT. Laws/Memory.lean: a read after a write, and the canonical form that every write keeps. The read laws hold
of every list of cells; only equalities between memories ask for the canonical form. -/

namespace Sys2Proof.Machine

/-! ## Keys -/

theorem rawKey_lt (p : Port) (a : Addr) : rawKey p a < 512 := by
  have hp := p.isLt
  have ha := a.isLt
  simp only [rawKey]
  omega

theorem rawKey_inj {p p' : Port} {a a' : Addr} : rawKey p a = rawKey p' a' ↔ p = p' ∧ a = a' := by
  have ha := a.isLt
  have ha' := a'.isLt
  constructor
  · intro h
    simp only [rawKey] at h
    exact ⟨Fin.ext (by omega), BitVec.eq_of_toNat_eq (by omega)⟩
  · rintro ⟨rfl, rfl⟩
    rfl

theorem exists_rawKey {k : Nat} (h : k < 512) : ∃ p a, rawKey p a = k :=
  ⟨⟨k / 256, by omega⟩, BitVec.ofNat 8 k, by simp only [rawKey, BitVec.toNat_ofNat]; omega⟩

namespace Memory

/-! ## Reads -/

@[simp] theorem read_nil (k : Nat) : read [] k = unlistedByte := rfl

@[simp] theorem read_cons (cell : Host.Cell) (m : Memory) (k : Nat) :
    read (cell :: m) k = if cell.1 = k then cell.2 else read m k := rfl

theorem erase_cons (cell : Host.Cell) (m : Memory) (k : Nat) :
    erase (cell :: m) k = if cell.1 = k then erase m k else cell :: erase m k := by
  by_cases h : cell.1 = k <;> simp [erase, h]

@[simp] theorem read_erase_self (m : Memory) (k : Nat) : read (erase m k) k = unlistedByte := by
  induction m with
  | nil => rfl
  | cons cell m ih =>
    by_cases h : cell.1 = k <;> simp [erase_cons, h, ih]

@[simp] theorem read_erase_other {m : Memory} {k l : Nat} (h : l ≠ k) : read (erase m k) l = read m l := by
  induction m with
  | nil => rfl
  | cons cell m ih =>
    by_cases hc : cell.1 = k
    · simp [erase_cons, hc, ih, h.symm]
    · simp [erase_cons, hc, ih]

theorem not_mem_erase {m : Memory} {k : Nat} : ∀ cell ∈ erase m k, cell.1 ≠ k := by
  intro cell hc
  simpa using (List.mem_filter.mp hc).2

theorem read_insert_self {m : Memory} {k : Nat} {v : Byte} (h : ∀ cell ∈ m, cell.1 ≠ k) : read (insert m k v) k = v := by
  induction m with
  | nil => simp [insert]
  | cons cell m ih =>
    simp only [insert]
    split
    · simp
    · simp [h cell (by simp), ih fun c hc => h c (by simp [hc])]

theorem read_insert_other {m : Memory} {k l : Nat} {v : Byte} (h : l ≠ k) : read (insert m k v) l = read m l := by
  induction m with
  | nil => simp [insert, h.symm]
  | cons cell m ih =>
    simp only [insert]
    split
    · simp [h.symm]
    · simp [ih]

/-- Reading a key after writing it gives the byte written. -/
@[simp] theorem read_write_self (m : Memory) (k : Nat) (v : Byte) : read (write m k v) k = v := by
  simp only [write]
  split
  · simp_all
  · exact read_insert_self not_mem_erase

/-- A write leaves every other key alone. -/
@[simp] theorem read_write_other {m : Memory} {k l : Nat} {v : Byte} (h : l ≠ k) : read (write m k v) l = read m l := by
  simp only [write]
  split
  · exact read_erase_other h
  · rw [read_insert_other h, read_erase_other h]

theorem read_write (m : Memory) (k l : Nat) (v : Byte) :
    read (write m k v) l = if l = k then v else read m l := by
  split
  · simp_all
  · simp_all

/-! ## Writing twice -/

theorem erase_of_not_mem {m : Memory} {k : Nat} (h : ∀ cell ∈ m, cell.1 ≠ k) : erase m k = m := by
  simpa [erase] using h

theorem erase_insert {m : Memory} {k : Nat} {v : Byte} (h : ∀ cell ∈ m, cell.1 ≠ k) : erase (insert m k v) k = m := by
  induction m with
  | nil => simp [insert, erase]
  | cons cell m ih =>
    have hm : ∀ c ∈ m, c.1 ≠ k := fun c hc => h c (by simp [hc])
    have h0 := h cell (by simp)
    simp only [insert]
    split
    · rw [erase_cons, if_pos rfl, erase_of_not_mem h]
    · rw [erase_cons, if_neg h0, ih hm]

theorem erase_write (m : Memory) (k : Nat) (v : Byte) : erase (write m k v) k = erase m k := by
  simp only [write]
  split
  · exact erase_of_not_mem not_mem_erase
  · exact erase_insert not_mem_erase

/-- Of two writes to one key the second alone stands. -/
@[simp] theorem write_write (m : Memory) (k : Nat) (v w : Byte) : write (write m k v) k w = write m k w := by
  rw [write, erase_write, write]

/-! ## The canonical form -/

theorem wf_nil : wf [] := by simp [wf]

theorem wf_erase {m : Memory} (h : wf m) (k : Nat) : wf (erase m k) :=
  ⟨h.1.filter _, fun cell hc => h.2 cell (List.mem_filter.mp hc).1⟩

theorem mem_insert {m : Memory} {k : Nat} {v : Byte} {cell : Host.Cell} (h : cell ∈ insert m k v) :
    cell = (k, v) ∨ cell ∈ m := by
  induction m with
  | nil => simpa [insert] using h
  | cons c m ih =>
    simp only [insert] at h
    split at h
    · simpa using h
    · rcases List.mem_cons.mp h with rfl | h
      · simp
      · rcases ih h with h | h <;> simp [h]

theorem pairwise_insert {m : Memory} {k : Nat} {v : Byte} (hm : m.Pairwise fun x y => x.1 < y.1)
    (hk : ∀ cell ∈ m, cell.1 ≠ k) : (insert m k v).Pairwise fun x y => x.1 < y.1 := by
  induction m with
  | nil => simp [insert]
  | cons c m ih =>
    obtain ⟨hc, hm⟩ := List.pairwise_cons.mp hm
    have hck := hk c (by simp)
    simp only [insert]
    split
    · rename_i hlt
      refine List.pairwise_cons.mpr ⟨fun y hy => ?_, List.pairwise_cons.mpr ⟨hc, hm⟩⟩
      rcases List.mem_cons.mp hy with rfl | hy
      · exact hlt
      · exact Nat.lt_trans hlt (hc y hy)
    · rename_i hge
      refine List.pairwise_cons.mpr ⟨fun y hy => ?_, ih hm fun x hx => hk x (by simp [hx])⟩
      rcases mem_insert hy with rfl | hy
      · show c.1 < k
        omega
      · exact hc y hy

/-- Every write to a key of the two maps keeps the canonical form. -/
theorem wf_write {m : Memory} (h : wf m) {k : Nat} (hk : k < 512) (v : Byte) : wf (write m k v) := by
  simp only [write]
  split
  · exact wf_erase h k
  · rename_i hv
    refine ⟨pairwise_insert (wf_erase h k).1 not_mem_erase, fun cell hc => ?_⟩
    rcases mem_insert hc with rfl | hc
    · exact ⟨hk, hv⟩
    · exact (wf_erase h k).2 cell hc

theorem read_of_lt_all {m : Memory} {k : Nat} (h : ∀ cell ∈ m, k < cell.1) : read m k = unlistedByte := by
  induction m with
  | nil => rfl
  | cons c m ih =>
    have hc := h c (by simp)
    simp [Nat.ne_of_gt hc, ih fun x hx => h x (by simp [hx])]

/-- Canonical memories that read alike are equal. -/
theorem ext_of_wf {m n : Memory} (hm : wf m) (hn : wf n) (h : ∀ k, read m k = read n k) : m = n := by
  induction m generalizing n with
  | nil =>
    cases n with
    | nil => rfl
    | cons d n =>
      have := h d.1
      simp only [read_nil, read_cons, if_true] at this
      exact absurd this.symm (hn.2 d (by simp)).2
  | cons c m ih =>
    obtain ⟨hc, hm1⟩ := List.pairwise_cons.mp hm.1
    cases n with
    | nil =>
      have := h c.1
      simp only [read_nil, read_cons, if_true] at this
      exact absurd this (hm.2 c (by simp)).2
    | cons d n =>
      obtain ⟨hd, hn1⟩ := List.pairwise_cons.mp hn.1
      have hwm : wf m := ⟨hm1, fun x hx => hm.2 x (by simp [hx])⟩
      have hwn : wf n := ⟨hn1, fun x hx => hn.2 x (by simp [hx])⟩
      have hkey : c.1 = d.1 := by
        rcases Nat.lt_trichotomy c.1 d.1 with hlt | heq | hlt
        · have := h c.1
          rw [read_of_lt_all (m := d :: n) (by
            intro x hx
            rcases List.mem_cons.mp hx with rfl | hx
            · exact hlt
            · exact Nat.lt_trans hlt (hd x hx))] at this
          simp only [read_cons, if_true] at this
          exact absurd this (hm.2 c (by simp)).2
        · exact heq
        · have := h d.1
          rw [read_of_lt_all (m := c :: m) (by
            intro x hx
            rcases List.mem_cons.mp hx with rfl | hx
            · exact hlt
            · exact Nat.lt_trans hlt (hc x hx))] at this
          simp only [read_cons, if_true] at this
          exact absurd this.symm (hn.2 d (by simp)).2
      have hval : c.2 = d.2 := by
        have := h c.1
        simpa [hkey] using this
      have htail : m = n := ih hwm hwn fun k => by
        by_cases hk : c.1 = k
        · subst hk
          rw [read_of_lt_all hc, read_of_lt_all fun x hx => hkey ▸ hd x hx]
        · have := h k
          have hk' : ¬ d.1 = k := hkey ▸ hk
          simpa [hk, hk'] using this
      rw [htail, show c = d from Prod.ext hkey hval]

/-- Writes to different keys commute on a canonical memory. -/
theorem write_comm {m : Memory} (h : wf m) {k l : Nat} (hk : k < 512) (hl : l < 512) (hkl : k ≠ l) (v w : Byte) :
    write (write m k v) l w = write (write m l w) k v := by
  refine ext_of_wf (wf_write (wf_write h hk v) hl w) (wf_write (wf_write h hl w) hk v) fun j => ?_
  simp only [read_write]
  split <;> split <;> simp_all

end Memory

end Sys2Proof.Machine
end

