-- ==== Sys2Proof/Laws/State.lean ====
section
/-! SUPPORT. Laws/State.lean: what each update of the state does to each field (one lemma per field and update, true by
rfl), and what the accessors read after an update. Later proofs cite these and unfold no update. -/

namespace Sys2Proof.Machine

@[simp] theorem getElem_perChannel {α : Type} (f : ChanIx → α) (c : ChanIx) : (perChannel f)[c.val] = f c := by
  fin_cases c <;> rfl

@[simp] theorem getElem_perOperator {α : Type} (f : OpIx → α) (o : OpIx) : (perOperator f)[o.val] = f o := by
  fin_cases o <;> rfl

namespace State

/-! ## Field by field -/

@[simp] theorem updateChan_params (s : State) (c : ChanIx) (f : Channel → Channel) :
    (s.updateChan c f).params = s.params := rfl
@[simp] theorem updateChan_globals (s : State) (c : ChanIx) (f : Channel → Channel) :
    (s.updateChan c f).globals = s.globals := rfl
@[simp] theorem updateChan_channels (s : State) (c : ChanIx) (f : Channel → Channel) :
    (s.updateChan c f).channels = s.channels.set c.val (f (s.chan c)) := rfl
@[simp] theorem updateChan_operators (s : State) (c : ChanIx) (f : Channel → Channel) :
    (s.updateChan c f).operators = s.operators := rfl
@[simp] theorem updateChan_raw (s : State) (c : ChanIx) (f : Channel → Channel) : (s.updateChan c f).raw = s.raw := rfl
@[simp] theorem updateChan_fault (s : State) (c : ChanIx) (f : Channel → Channel) :
    (s.updateChan c f).fault = s.fault := rfl
@[simp] theorem updateChan_diag (s : State) (c : ChanIx) (f : Channel → Channel) :
    (s.updateChan c f).diag = s.diag := rfl
@[simp] theorem updateChan_prev (s : State) (c : ChanIx) (f : Channel → Channel) :
    (s.updateChan c f).prev = s.prev := rfl
@[simp] theorem updateChan_chg (s : State) (c : ChanIx) (f : Channel → Channel) : (s.updateChan c f).chg = s.chg := rfl
@[simp] theorem updateChan_dumps (s : State) (c : ChanIx) (f : Channel → Channel) :
    (s.updateChan c f).dumps = s.dumps := rfl
@[simp] theorem updateChan_pending (s : State) (c : ChanIx) (f : Channel → Channel) :
    (s.updateChan c f).pending = s.pending := rfl
@[simp] theorem updateChan_answers (s : State) (c : ChanIx) (f : Channel → Channel) :
    (s.updateChan c f).answers = s.answers := rfl

@[simp] theorem updateOper_params (s : State) (c : ChanIx) (o : OpIx) (f : Operator → Operator) :
    (s.updateOper c o f).params = s.params := rfl
@[simp] theorem updateOper_globals (s : State) (c : ChanIx) (o : OpIx) (f : Operator → Operator) :
    (s.updateOper c o f).globals = s.globals := rfl
@[simp] theorem updateOper_channels (s : State) (c : ChanIx) (o : OpIx) (f : Operator → Operator) :
    (s.updateOper c o f).channels = s.channels := rfl
@[simp] theorem updateOper_operators (s : State) (c : ChanIx) (o : OpIx) (f : Operator → Operator) :
    (s.updateOper c o f).operators = s.operators.set c.val ((s.operators[c.val]).set o.val (f (s.oper c o))) := rfl
@[simp] theorem updateOper_raw (s : State) (c : ChanIx) (o : OpIx) (f : Operator → Operator) :
    (s.updateOper c o f).raw = s.raw := rfl
@[simp] theorem updateOper_fault (s : State) (c : ChanIx) (o : OpIx) (f : Operator → Operator) :
    (s.updateOper c o f).fault = s.fault := rfl
@[simp] theorem updateOper_diag (s : State) (c : ChanIx) (o : OpIx) (f : Operator → Operator) :
    (s.updateOper c o f).diag = s.diag := rfl
@[simp] theorem updateOper_prev (s : State) (c : ChanIx) (o : OpIx) (f : Operator → Operator) :
    (s.updateOper c o f).prev = s.prev := rfl
@[simp] theorem updateOper_chg (s : State) (c : ChanIx) (o : OpIx) (f : Operator → Operator) :
    (s.updateOper c o f).chg = s.chg := rfl
@[simp] theorem updateOper_dumps (s : State) (c : ChanIx) (o : OpIx) (f : Operator → Operator) :
    (s.updateOper c o f).dumps = s.dumps := rfl
@[simp] theorem updateOper_pending (s : State) (c : ChanIx) (o : OpIx) (f : Operator → Operator) :
    (s.updateOper c o f).pending = s.pending := rfl
@[simp] theorem updateOper_answers (s : State) (c : ChanIx) (o : OpIx) (f : Operator → Operator) :
    (s.updateOper c o f).answers = s.answers := rfl

@[simp] theorem updateOpers_params (s : State) (c : ChanIx) (f : OpIx → Operator → Operator) :
    (s.updateOpers c f).params = s.params := rfl
@[simp] theorem updateOpers_globals (s : State) (c : ChanIx) (f : OpIx → Operator → Operator) :
    (s.updateOpers c f).globals = s.globals := rfl
@[simp] theorem updateOpers_channels (s : State) (c : ChanIx) (f : OpIx → Operator → Operator) :
    (s.updateOpers c f).channels = s.channels := rfl
@[simp] theorem updateOpers_operators (s : State) (c : ChanIx) (f : OpIx → Operator → Operator) :
    (s.updateOpers c f).operators = s.operators.set c.val (perOperator fun o => f o (s.oper c o)) := rfl
@[simp] theorem updateOpers_raw (s : State) (c : ChanIx) (f : OpIx → Operator → Operator) :
    (s.updateOpers c f).raw = s.raw := rfl
@[simp] theorem updateOpers_fault (s : State) (c : ChanIx) (f : OpIx → Operator → Operator) :
    (s.updateOpers c f).fault = s.fault := rfl
@[simp] theorem updateOpers_diag (s : State) (c : ChanIx) (f : OpIx → Operator → Operator) :
    (s.updateOpers c f).diag = s.diag := rfl
@[simp] theorem updateOpers_prev (s : State) (c : ChanIx) (f : OpIx → Operator → Operator) :
    (s.updateOpers c f).prev = s.prev := rfl
@[simp] theorem updateOpers_chg (s : State) (c : ChanIx) (f : OpIx → Operator → Operator) :
    (s.updateOpers c f).chg = s.chg := rfl
@[simp] theorem updateOpers_dumps (s : State) (c : ChanIx) (f : OpIx → Operator → Operator) :
    (s.updateOpers c f).dumps = s.dumps := rfl
@[simp] theorem updateOpers_pending (s : State) (c : ChanIx) (f : OpIx → Operator → Operator) :
    (s.updateOpers c f).pending = s.pending := rfl
@[simp] theorem updateOpers_answers (s : State) (c : ChanIx) (f : OpIx → Operator → Operator) :
    (s.updateOpers c f).answers = s.answers := rfl

@[simp] theorem updateGlobals_params (s : State) (f : Globals → Globals) : (s.updateGlobals f).params = s.params := rfl
@[simp] theorem updateGlobals_globals (s : State) (f : Globals → Globals) :
    (s.updateGlobals f).globals = f s.globals := rfl
@[simp] theorem updateGlobals_channels (s : State) (f : Globals → Globals) :
    (s.updateGlobals f).channels = s.channels := rfl
@[simp] theorem updateGlobals_operators (s : State) (f : Globals → Globals) :
    (s.updateGlobals f).operators = s.operators := rfl
@[simp] theorem updateGlobals_raw (s : State) (f : Globals → Globals) : (s.updateGlobals f).raw = s.raw := rfl
@[simp] theorem updateGlobals_fault (s : State) (f : Globals → Globals) : (s.updateGlobals f).fault = s.fault := rfl
@[simp] theorem updateGlobals_diag (s : State) (f : Globals → Globals) : (s.updateGlobals f).diag = s.diag := rfl
@[simp] theorem updateGlobals_prev (s : State) (f : Globals → Globals) : (s.updateGlobals f).prev = s.prev := rfl
@[simp] theorem updateGlobals_chg (s : State) (f : Globals → Globals) : (s.updateGlobals f).chg = s.chg := rfl
@[simp] theorem updateGlobals_dumps (s : State) (f : Globals → Globals) : (s.updateGlobals f).dumps = s.dumps := rfl
@[simp] theorem updateGlobals_pending (s : State) (f : Globals → Globals) :
    (s.updateGlobals f).pending = s.pending := rfl
@[simp] theorem updateGlobals_answers (s : State) (f : Globals → Globals) :
    (s.updateGlobals f).answers = s.answers := rfl

@[simp] theorem storeRaw_params (s : State) (p : Port) (a : Addr) (v : Byte) :
    (s.storeRaw p a v).params = s.params := rfl
@[simp] theorem storeRaw_globals (s : State) (p : Port) (a : Addr) (v : Byte) :
    (s.storeRaw p a v).globals = s.globals := rfl
@[simp] theorem storeRaw_channels (s : State) (p : Port) (a : Addr) (v : Byte) :
    (s.storeRaw p a v).channels = s.channels := rfl
@[simp] theorem storeRaw_operators (s : State) (p : Port) (a : Addr) (v : Byte) :
    (s.storeRaw p a v).operators = s.operators := rfl
@[simp] theorem storeRaw_raw (s : State) (p : Port) (a : Addr) (v : Byte) :
    (s.storeRaw p a v).raw = Memory.write s.raw (rawKey p a) v := rfl
@[simp] theorem storeRaw_fault (s : State) (p : Port) (a : Addr) (v : Byte) : (s.storeRaw p a v).fault = s.fault := rfl
@[simp] theorem storeRaw_diag (s : State) (p : Port) (a : Addr) (v : Byte) : (s.storeRaw p a v).diag = s.diag := rfl
@[simp] theorem storeRaw_prev (s : State) (p : Port) (a : Addr) (v : Byte) : (s.storeRaw p a v).prev = s.prev := rfl
@[simp] theorem storeRaw_chg (s : State) (p : Port) (a : Addr) (v : Byte) : (s.storeRaw p a v).chg = s.chg := rfl
@[simp] theorem storeRaw_dumps (s : State) (p : Port) (a : Addr) (v : Byte) : (s.storeRaw p a v).dumps = s.dumps := rfl
@[simp] theorem storeRaw_pending (s : State) (p : Port) (a : Addr) (v : Byte) :
    (s.storeRaw p a v).pending = s.pending := rfl
@[simp] theorem storeRaw_answers (s : State) (p : Port) (a : Addr) (v : Byte) :
    (s.storeRaw p a v).answers = s.answers := rfl

@[simp] theorem emit_params (s : State) (code : DiagCode) (p : Port) (a : Addr) (v : Byte) :
    (s.emit code p a v).params = s.params := rfl
@[simp] theorem emit_globals (s : State) (code : DiagCode) (p : Port) (a : Addr) (v : Byte) :
    (s.emit code p a v).globals = s.globals := rfl
@[simp] theorem emit_channels (s : State) (code : DiagCode) (p : Port) (a : Addr) (v : Byte) :
    (s.emit code p a v).channels = s.channels := rfl
@[simp] theorem emit_operators (s : State) (code : DiagCode) (p : Port) (a : Addr) (v : Byte) :
    (s.emit code p a v).operators = s.operators := rfl
@[simp] theorem emit_raw (s : State) (code : DiagCode) (p : Port) (a : Addr) (v : Byte) :
    (s.emit code p a v).raw = s.raw := rfl
@[simp] theorem emit_fault (s : State) (code : DiagCode) (p : Port) (a : Addr) (v : Byte) :
    (s.emit code p a v).fault = s.fault := rfl
@[simp] theorem emit_diag (s : State) (code : DiagCode) (p : Port) (a : Addr) (v : Byte) :
    (s.emit code p a v).diag = s.diag ++ [⟨code, p, a, v⟩] := rfl
@[simp] theorem emit_prev (s : State) (code : DiagCode) (p : Port) (a : Addr) (v : Byte) :
    (s.emit code p a v).prev = s.prev := rfl
@[simp] theorem emit_chg (s : State) (code : DiagCode) (p : Port) (a : Addr) (v : Byte) :
    (s.emit code p a v).chg = s.chg := rfl
@[simp] theorem emit_dumps (s : State) (code : DiagCode) (p : Port) (a : Addr) (v : Byte) :
    (s.emit code p a v).dumps = s.dumps := rfl
@[simp] theorem emit_pending (s : State) (code : DiagCode) (p : Port) (a : Addr) (v : Byte) :
    (s.emit code p a v).pending = s.pending := rfl
@[simp] theorem emit_answers (s : State) (code : DiagCode) (p : Port) (a : Addr) (v : Byte) :
    (s.emit code p a v).answers = s.answers := rfl

@[simp] theorem raiseFault_params (s : State) (code : FaultCode) : (s.raiseFault code).params = s.params := rfl
@[simp] theorem raiseFault_globals (s : State) (code : FaultCode) : (s.raiseFault code).globals = s.globals := rfl
@[simp] theorem raiseFault_channels (s : State) (code : FaultCode) : (s.raiseFault code).channels = s.channels := rfl
@[simp] theorem raiseFault_operators (s : State) (code : FaultCode) : (s.raiseFault code).operators = s.operators := rfl
@[simp] theorem raiseFault_raw (s : State) (code : FaultCode) : (s.raiseFault code).raw = s.raw := rfl
@[simp] theorem raiseFault_fault (s : State) (code : FaultCode) : (s.raiseFault code).fault = some code := rfl
@[simp] theorem raiseFault_diag (s : State) (code : FaultCode) : (s.raiseFault code).diag = s.diag := rfl
@[simp] theorem raiseFault_prev (s : State) (code : FaultCode) : (s.raiseFault code).prev = s.prev := rfl
@[simp] theorem raiseFault_chg (s : State) (code : FaultCode) : (s.raiseFault code).chg = s.chg := rfl
@[simp] theorem raiseFault_dumps (s : State) (code : FaultCode) : (s.raiseFault code).dumps = s.dumps := rfl
@[simp] theorem raiseFault_pending (s : State) (code : FaultCode) : (s.raiseFault code).pending = s.pending := rfl
@[simp] theorem raiseFault_answers (s : State) (code : FaultCode) : (s.raiseFault code).answers = s.answers := rfl

@[simp] theorem answer_params (s : State) (a : Answer) : (s.answer a).params = s.params := rfl
@[simp] theorem answer_globals (s : State) (a : Answer) : (s.answer a).globals = s.globals := rfl
@[simp] theorem answer_channels (s : State) (a : Answer) : (s.answer a).channels = s.channels := rfl
@[simp] theorem answer_operators (s : State) (a : Answer) : (s.answer a).operators = s.operators := rfl
@[simp] theorem answer_raw (s : State) (a : Answer) : (s.answer a).raw = s.raw := rfl
@[simp] theorem answer_fault (s : State) (a : Answer) : (s.answer a).fault = s.fault := rfl
@[simp] theorem answer_diag (s : State) (a : Answer) : (s.answer a).diag = s.diag := rfl
@[simp] theorem answer_prev (s : State) (a : Answer) : (s.answer a).prev = s.prev := rfl
@[simp] theorem answer_chg (s : State) (a : Answer) : (s.answer a).chg = s.chg := rfl
@[simp] theorem answer_dumps (s : State) (a : Answer) : (s.answer a).dumps = s.dumps := rfl
@[simp] theorem answer_pending (s : State) (a : Answer) : (s.answer a).pending = s.pending := rfl
@[simp] theorem answer_answers (s : State) (a : Answer) : (s.answer a).answers = s.answers ++ [a] := rfl

/-! ## Accessors -/

@[simp] theorem oper_updateChan (s : State) (c : ChanIx) (f : Channel → Channel) (c' : ChanIx) (o' : OpIx) :
    (s.updateChan c f).oper c' o' = s.oper c' o' := rfl
@[simp] theorem rawByte_updateChan (s : State) (c : ChanIx) (f : Channel → Channel) (q : Port) (b : Addr) :
    (s.updateChan c f).rawByte q b = s.rawByte q b := rfl
@[simp] theorem chan_updateOper (s : State) (c : ChanIx) (o : OpIx) (f : Operator → Operator) (c' : ChanIx) :
    (s.updateOper c o f).chan c' = s.chan c' := rfl
@[simp] theorem rawByte_updateOper (s : State) (c : ChanIx) (o : OpIx) (f : Operator → Operator) (q : Port) (b : Addr) :
    (s.updateOper c o f).rawByte q b = s.rawByte q b := rfl
@[simp] theorem chan_updateOpers (s : State) (c : ChanIx) (f : OpIx → Operator → Operator) (c' : ChanIx) :
    (s.updateOpers c f).chan c' = s.chan c' := rfl
@[simp] theorem rawByte_updateOpers (s : State) (c : ChanIx) (f : OpIx → Operator → Operator) (q : Port) (b : Addr) :
    (s.updateOpers c f).rawByte q b = s.rawByte q b := rfl
@[simp] theorem chan_updateGlobals (s : State) (f : Globals → Globals) (c' : ChanIx) :
    (s.updateGlobals f).chan c' = s.chan c' := rfl
@[simp] theorem oper_updateGlobals (s : State) (f : Globals → Globals) (c' : ChanIx) (o' : OpIx) :
    (s.updateGlobals f).oper c' o' = s.oper c' o' := rfl
@[simp] theorem rawByte_updateGlobals (s : State) (f : Globals → Globals) (q : Port) (b : Addr) :
    (s.updateGlobals f).rawByte q b = s.rawByte q b := rfl
@[simp] theorem snapshot_updateGlobals (s : State) (f : Globals → Globals) (c' : ChanIx) :
    (s.updateGlobals f).snapshot c' = s.snapshot c' := rfl
@[simp] theorem chan_storeRaw (s : State) (p : Port) (a : Addr) (v : Byte) (c' : ChanIx) :
    (s.storeRaw p a v).chan c' = s.chan c' := rfl
@[simp] theorem oper_storeRaw (s : State) (p : Port) (a : Addr) (v : Byte) (c' : ChanIx) (o' : OpIx) :
    (s.storeRaw p a v).oper c' o' = s.oper c' o' := rfl
@[simp] theorem snapshot_storeRaw (s : State) (p : Port) (a : Addr) (v : Byte) (c' : ChanIx) :
    (s.storeRaw p a v).snapshot c' = s.snapshot c' := rfl
@[simp] theorem chan_emit (s : State) (code : DiagCode) (p : Port) (a : Addr) (v : Byte) (c' : ChanIx) :
    (s.emit code p a v).chan c' = s.chan c' := rfl
@[simp] theorem oper_emit (s : State) (code : DiagCode) (p : Port) (a : Addr) (v : Byte) (c' : ChanIx) (o' : OpIx) :
    (s.emit code p a v).oper c' o' = s.oper c' o' := rfl
@[simp] theorem rawByte_emit (s : State) (code : DiagCode) (p : Port) (a : Addr) (v : Byte) (q : Port) (b : Addr) :
    (s.emit code p a v).rawByte q b = s.rawByte q b := rfl
@[simp] theorem snapshot_emit (s : State) (code : DiagCode) (p : Port) (a : Addr) (v : Byte) (c' : ChanIx) :
    (s.emit code p a v).snapshot c' = s.snapshot c' := rfl
@[simp] theorem chan_raiseFault (s : State) (code : FaultCode) (c' : ChanIx) :
    (s.raiseFault code).chan c' = s.chan c' := rfl
@[simp] theorem oper_raiseFault (s : State) (code : FaultCode) (c' : ChanIx) (o' : OpIx) :
    (s.raiseFault code).oper c' o' = s.oper c' o' := rfl
@[simp] theorem rawByte_raiseFault (s : State) (code : FaultCode) (q : Port) (b : Addr) :
    (s.raiseFault code).rawByte q b = s.rawByte q b := rfl
@[simp] theorem snapshot_raiseFault (s : State) (code : FaultCode) (c' : ChanIx) :
    (s.raiseFault code).snapshot c' = s.snapshot c' := rfl
@[simp] theorem chan_answer (s : State) (a : Answer) (c' : ChanIx) :
    (s.answer a).chan c' = s.chan c' := rfl
@[simp] theorem oper_answer (s : State) (a : Answer) (c' : ChanIx) (o' : OpIx) :
    (s.answer a).oper c' o' = s.oper c' o' := rfl
@[simp] theorem rawByte_answer (s : State) (a : Answer) (q : Port) (b : Addr) :
    (s.answer a).rawByte q b = s.rawByte q b := rfl
@[simp] theorem snapshot_answer (s : State) (a : Answer) (c' : ChanIx) :
    (s.answer a).snapshot c' = s.snapshot c' := rfl

@[simp] theorem chan_updateChan (s : State) (c d : ChanIx) (f : Channel → Channel) :
    (s.updateChan c f).chan d = if c = d then f (s.chan d) else s.chan d := by
  simp only [chan, updateChan_channels, Vector.getElem_set, Fin.val_inj]
  by_cases h : c = d
  · simp [h]
  · simp [h]

@[simp] theorem oper_updateOper (s : State) (c d : ChanIx) (o q : OpIx) (f : Operator → Operator) :
    (s.updateOper c o f).oper d q = if c = d ∧ o = q then f (s.oper d q) else s.oper d q := by
  simp only [oper, updateOper_operators, Vector.getElem_set, Fin.val_inj]
  by_cases h : c = d
  · subst h
    by_cases h' : o = q
    · simp [h']
    · simp [h', Fin.val_inj]
  · simp [h]

@[simp] theorem oper_updateOpers (s : State) (c d : ChanIx) (q : OpIx) (f : OpIx → Operator → Operator) :
    (s.updateOpers c f).oper d q = if c = d then f q (s.oper d q) else s.oper d q := by
  simp only [oper, updateOpers_operators, Vector.getElem_set, Fin.val_inj]
  by_cases h : c = d
  · simp [h]
  · simp [h]

/-- R52: the byte a raw store leaves at every address of both ports. -/
@[simp] theorem rawByte_storeRaw (s : State) (p q : Port) (a b : Addr) (v : Byte) :
    (s.storeRaw p a v).rawByte q b = if q = p ∧ b = a then v else s.rawByte q b := by
  simp only [rawByte, storeRaw_raw, Memory.read_write, rawKey_inj]

/-- Two states hold the same channels when they read alike at every channel number. -/
theorem channels_ext {s t : State} (h : ∀ c, s.chan c = t.chan c) : s.channels = t.channels :=
  Vector.ext fun i hi => h ⟨i, hi⟩

/-- Two states hold the same operators when they read alike at every channel and operator number. -/
theorem operators_ext {s t : State} (h : ∀ c o, s.oper c o = t.oper c o) : s.operators = t.operators :=
  Vector.ext fun i hi => Vector.ext fun j hj => h ⟨i, hi⟩ ⟨j, hj⟩

/-- R192: the parts of a channel snapshot. -/
theorem snapshot_eq (s : State) (c : ChanIx) :
    s.snapshot c = { toChannel := s.chan c, ops := perOperator fun o => s.oper c o } := by
  simp only [snapshot, snapshotOf]
  congr 1
  exact Vector.ext fun j hj => (getElem_perOperator (fun o => s.oper c o) ⟨j, hj⟩).symm

/-- A channel snapshot depends on that channel and its operators alone. -/
theorem snapshot_congr {s t : State} {c : ChanIx} (hc : s.chan c = t.chan c) (ho : ∀ o, s.oper c o = t.oper c o) :
    s.snapshot c = t.snapshot c := by
  simp only [snapshot_eq, hc, ho]

end State

end Sys2Proof.Machine
end

