-- ==== Sys2Proof/Laws/Detector.lean ====
section
/-! SUPPORT. Laws/Detector.lean: what one run of the detector does (R197): the six channels do not disturb one another,
so the loop is a statement about each channel. -/

namespace Sys2Proof.Machine

/-! ## The body for one channel -/

@[simp] theorem detectChannel_params (s : State) (c : ChanIx) : (detectChannel s c).params = s.params := rfl
@[simp] theorem detectChannel_globals (s : State) (c : ChanIx) : (detectChannel s c).globals = s.globals := rfl
@[simp] theorem detectChannel_channels (s : State) (c : ChanIx) : (detectChannel s c).channels = s.channels := rfl
@[simp] theorem detectChannel_operators (s : State) (c : ChanIx) : (detectChannel s c).operators = s.operators := rfl
@[simp] theorem detectChannel_raw (s : State) (c : ChanIx) : (detectChannel s c).raw = s.raw := rfl
@[simp] theorem detectChannel_fault (s : State) (c : ChanIx) : (detectChannel s c).fault = s.fault := rfl
@[simp] theorem detectChannel_diag (s : State) (c : ChanIx) : (detectChannel s c).diag = s.diag := rfl
@[simp] theorem detectChannel_pending (s : State) (c : ChanIx) : (detectChannel s c).pending = s.pending := rfl
@[simp] theorem detectChannel_answers (s : State) (c : ChanIx) : (detectChannel s c).answers = s.answers := rfl
@[simp] theorem snapshot_detectChannel (s : State) (c d : ChanIx) :
    (detectChannel s c).snapshot d = s.snapshot d := rfl

theorem prev_detectChannel (s : State) (c d : ChanIx) :
    (detectChannel s c).prev[d.val] = if c = d then s.snapshot d else s.prev[d.val] := by
  simp only [detectChannel, Vector.getElem_set, Fin.val_inj]
  by_cases h : c = d <;> simp [h]

theorem chg_detectChannel (s : State) (c d : ChanIx) :
    (detectChannel s c).chg[d.val] = if c = d then s.changed d else s.chg[d.val] := by
  simp only [detectChannel, Vector.getElem_set, Fin.val_inj]
  by_cases h : c = d <;> simp [h]

theorem changed_detectChannel {s : State} {c d : ChanIx} (h : c ≠ d) :
    (detectChannel s c).changed d = s.changed d := by
  simp [State.changed, prev_detectChannel, h]

/-- The dumps of one channel (R197): its retained snapshot if it has changed and no change came before, else none. -/
def dumpsOf (s : State) (c : ChanIx) : List (ChanIx × ChannelSnapshot) :=
  if s.changed c && !s.chg[c.val] then [(c, s.prev[c.val])] else []

theorem dumps_detectChannel (s : State) (c : ChanIx) : (detectChannel s c).dumps = s.dumps ++ dumpsOf s c := by
  simp only [detectChannel, dumpsOf]
  split <;> simp

theorem dumpsOf_detectChannel {s : State} {c d : ChanIx} (h : c ≠ d) : dumpsOf (detectChannel s c) d = dumpsOf s d := by
  simp [dumpsOf, changed_detectChannel h, chg_detectChannel, prev_detectChannel, h]

/-! ## The loop -/

/-- What every turn of the loop keeps, the loop keeps. -/
theorem foldl_detectChannel_keeps {α : Type} (read : State → α) (h : ∀ s c, read (detectChannel s c) = read s)
    (cs : List ChanIx) (s : State) : read (cs.foldl detectChannel s) = read s := by
  induction cs generalizing s with
  | nil => rfl
  | cons c cs ih => rw [List.foldl_cons, ih, h]

@[simp] theorem detect_params (s : State) : (detect s).params = s.params :=
  foldl_detectChannel_keeps State.params (fun _ _ => rfl) _ s
@[simp] theorem detect_globals (s : State) : (detect s).globals = s.globals :=
  foldl_detectChannel_keeps State.globals (fun _ _ => rfl) _ s
@[simp] theorem detect_channels (s : State) : (detect s).channels = s.channels :=
  foldl_detectChannel_keeps State.channels (fun _ _ => rfl) _ s
@[simp] theorem detect_operators (s : State) : (detect s).operators = s.operators :=
  foldl_detectChannel_keeps State.operators (fun _ _ => rfl) _ s
@[simp] theorem detect_raw (s : State) : (detect s).raw = s.raw :=
  foldl_detectChannel_keeps State.raw (fun _ _ => rfl) _ s
@[simp] theorem detect_fault (s : State) : (detect s).fault = s.fault :=
  foldl_detectChannel_keeps State.fault (fun _ _ => rfl) _ s
@[simp] theorem detect_diag (s : State) : (detect s).diag = s.diag :=
  foldl_detectChannel_keeps State.diag (fun _ _ => rfl) _ s
@[simp] theorem detect_pending (s : State) : (detect s).pending = s.pending :=
  foldl_detectChannel_keeps State.pending (fun _ _ => rfl) _ s
@[simp] theorem detect_answers (s : State) : (detect s).answers = s.answers :=
  foldl_detectChannel_keeps State.answers (fun _ _ => rfl) _ s
@[simp] theorem chan_detect (s : State) (c : ChanIx) : (detect s).chan c = s.chan c :=
  foldl_detectChannel_keeps (·.chan c) (fun _ _ => rfl) _ s
@[simp] theorem oper_detect (s : State) (c : ChanIx) (o : OpIx) : (detect s).oper c o = s.oper c o :=
  foldl_detectChannel_keeps (·.oper c o) (fun _ _ => rfl) _ s
@[simp] theorem rawByte_detect (s : State) (p : Port) (a : Addr) : (detect s).rawByte p a = s.rawByte p a :=
  foldl_detectChannel_keeps (·.rawByte p a) (fun _ _ => rfl) _ s
@[simp] theorem snapshot_detect (s : State) (c : ChanIx) : (detect s).snapshot c = s.snapshot c :=
  foldl_detectChannel_keeps (·.snapshot c) (fun _ _ => rfl) _ s

theorem prev_foldl_detectChannel (cs : List ChanIx) (s : State) (d : ChanIx) :
    (cs.foldl detectChannel s).prev[d.val] = if d ∈ cs then s.snapshot d else s.prev[d.val] := by
  induction cs generalizing s with
  | nil => simp
  | cons c cs ih =>
    rw [List.foldl_cons, ih, prev_detectChannel]
    by_cases h : c = d
    · simp [h]
    · simp [h, Ne.symm h]

theorem chg_foldl_detectChannel {cs : List ChanIx} (hcs : cs.Nodup) (s : State) (d : ChanIx) :
    (cs.foldl detectChannel s).chg[d.val] = if d ∈ cs then s.changed d else s.chg[d.val] := by
  induction cs generalizing s with
  | nil => simp
  | cons c cs ih =>
    obtain ⟨hc, hcs⟩ := List.nodup_cons.mp hcs
    rw [List.foldl_cons, ih hcs, chg_detectChannel]
    by_cases h : c = d
    · subst h
      simp [hc]
    · simp [h, Ne.symm h, changed_detectChannel h]

theorem dumps_foldl_detectChannel {cs : List ChanIx} (hcs : cs.Nodup) (s : State) :
    (cs.foldl detectChannel s).dumps = s.dumps ++ cs.flatMap (dumpsOf s) := by
  induction cs generalizing s with
  | nil => simp
  | cons c cs ih =>
    obtain ⟨hc, hcs⟩ := List.nodup_cons.mp hcs
    rw [List.foldl_cons, ih hcs, dumps_detectChannel, List.append_assoc, List.flatMap_cons]
    congr 2
    exact List.flatMap_congr fun d hd => dumpsOf_detectChannel fun h => hc (h ▸ hd)

theorem nodup_allChannels : allChannels.Nodup := by decide

theorem mem_allChannels (c : ChanIx) : c ∈ allChannels := by revert c; decide

/-- R197: every channel retains its present snapshot. -/
@[simp] theorem prev_detect (s : State) (c : ChanIx) : (detect s).prev[c.val] = s.snapshot c := by
  simp [detect, prev_foldl_detectChannel, mem_allChannels]

/-- R197: every channel's flag says whether this write changed it. -/
@[simp] theorem chg_detect (s : State) (c : ChanIx) : (detect s).chg[c.val] = s.changed c := by
  simp [detect, chg_foldl_detectChannel nodup_allChannels, mem_allChannels]

/-- R197: the dumps of one run, in channel order. -/
theorem dumps_detect (s : State) : (detect s).dumps = s.dumps ++ allChannels.flatMap (dumpsOf s) :=
  dumps_foldl_detectChannel nodup_allChannels s

/-! ## Snapshot equality (R195, R196) -/

@[simp] theorem sameField_self (f : OperatorField) (x : Operator) : sameField f x x = true := by
  cases f <;> simp [sameField]

@[simp] theorem opEq_self (fields : List OperatorField) (x : OperatorSnapshot) : opEq fields x x = true := by
  simp [opEq]

@[simp] theorem chEq_self (fields : List OperatorField) (x : ChannelSnapshot) : chEq fields x x = true := by
  simp [chEq]

end Sys2Proof.Machine
end

