-- ==== Sys2Proof/Laws/Exec.lean ====
section
/-! SUPPORT. Laws/Exec.lean: everything a write can do, said once. Every meaning is `takeWrite` of its class's effect
(`exec_eq`), it answers exactly when the instance has not faulted (`exec_next_iff`), and `effectOf_*` say what an effect
does to each part of the state. Provers cite these and unfold no meaning. -/

namespace Sys2Proof.Machine

theorem whenRunning_of_running {s : State} (h : s.fault = none) (after : State) :
    whenRunning s after = .next after := by
  simp [whenRunning, h]

theorem whenRunning_of_faulted {s : State} {code : FaultCode} (h : s.fault = some code) (after : State) :
    whenRunning s after = .fault (.halted code) := by
  simp [whenRunning, h]

/-- All a guarded operation can answer. -/
theorem whenRunning_next_iff {s after t : State} : whenRunning s after = .next t ↔ s.fault = none ∧ after = t := by
  cases h : s.fault <;> simp [whenRunning, h]

/-- The decoded effect of a write's class, before which the raw store has been made (R76). -/
def effectOf (i : Instr) (s : State) : State :=
  match i with
  | .wrLfo v => lfoEffect v s
  | .wrTimerB v => timerBEffect v s
  | .wrMode v => modeEffect v s
  | .wrKey v => keyEffect v s
  | .wrDacData _ => s
  | .wrDacEn v => dacEnEffect v s
  | .wrDtMul p slot co v => operatorEffect p slot co (setDtMul v) s
  | .wrTl p slot co v => operatorEffect p slot co (setTl v) s
  | .wrKsAr p slot co v => operatorEffect p slot co (setKsAr v) s
  | .wrAmD1r p slot co v => operatorEffect p slot co (setAmD1r v) s
  | .wrD2r p slot co v => operatorEffect p slot co (setD2r v) s
  | .wrD1lRr p slot co v => operatorEffect p slot co (setD1lRr v) s
  | .wrUndoc9x p low v => undocEffect p (Instr.addr (.wrUndoc9x p low v)) v s
  | .wrFnumLo p co v => fnumLoEffect p co v s
  | .wrFnumHi p co v => fnumHiEffect p co v s
  | .wrOpFnumLo p co v => opFnumLoEffect p co v s
  | .wrOpFnumHi p co v => opFnumHiEffect p co v s
  | .wrFbAlg p co v => fbAlgEffect p co v s
  | .wrLrAmsFms p co v => lrAmsFmsEffect p co v s
  | .unrecognised p a v => unrecognisedEffect p a v s

/-- R52, R76: executing a write is the raw store and then the effect of its class. -/
theorem exec_eq (i : Instr) (s : State) :
    exec i s = whenRunning s (effectOf i (s.storeRaw i.port i.addr i.data)) := by
  cases i <;> rfl

/-- A write completes exactly where the instance has not faulted (R53, R215). -/
theorem exec_next_iff {i : Instr} {s t : State} :
    exec i s = .next t ↔ s.fault = none ∧ effectOf i (s.storeRaw i.port i.addr i.data) = t := by
  rw [exec_eq, whenRunning_next_iff]

theorem exec_of_running {s : State} (h : s.fault = none) (i : Instr) :
    exec i s = .next (effectOf i (s.storeRaw i.port i.addr i.data)) := by
  rw [exec_eq, whenRunning_of_running h]

theorem exec_of_faulted {s : State} {code : FaultCode} (h : s.fault = some code) (i : Instr) :
    exec i s = .fault (.halted code) := by
  rw [exec_eq, whenRunning_of_faulted h]

/-! ## A frequency write, by its target -/

@[simp] theorem freqEffect_channel (c : ChanIx) (f : Channel → Channel) (g : Operator → Operator) (s : State) :
    freqEffect (.channel c) f g s = s.updateChan c f := rfl

@[simp] theorem freqEffect_operator (c : ChanIx) (o : OpIx) (f : Channel → Channel) (g : Operator → Operator) (s : State) :
    freqEffect (.operator c o) f g s = s.updateOper c o g := rfl

/-- R80: where a frequency write goes, case by case. -/
theorem freqEffect_freqTarget (p : Port) (co : Offset) (special : Bool) (f : Channel → Channel)
    (g : Operator → Operator) (s : State) :
    freqEffect (freqTarget p co special) f g s =
      if co = 2 ∧ special = true then s.updateOper (specialChannel p) 0 g else s.updateChan (channelAt p co) f := by
  simp only [freqTarget]
  split <;> simp

/-! ## What an effect can do, part by part -/

/-- Every effect rewrites globals, channels, operators and the diagnostic output, and nothing else. -/
theorem effectOf_frame (i : Instr) (s : State) :
    effectOf i s =
      { s with
        globals := (effectOf i s).globals, channels := (effectOf i s).channels
        operators := (effectOf i s).operators, diag := (effectOf i s).diag } := by
  cases i <;> simp only [effectOf, lfoEffect, timerBEffect, modeEffect, keyEffect, dacEnEffect, operatorEffect,
    undocEffect, fnumLoEffect, fnumHiEffect, freqEffect_freqTarget, opFnumLoEffect, opFnumHiEffect, fbAlgEffect,
    lrAmsFmsEffect, unrecognisedEffect] <;> (try split) <;> rfl

@[simp] theorem effectOf_params (i : Instr) (s : State) : (effectOf i s).params = s.params := by rw [effectOf_frame]
@[simp] theorem effectOf_raw (i : Instr) (s : State) : (effectOf i s).raw = s.raw := by rw [effectOf_frame]
@[simp] theorem effectOf_fault (i : Instr) (s : State) : (effectOf i s).fault = s.fault := by rw [effectOf_frame]
@[simp] theorem effectOf_prev (i : Instr) (s : State) : (effectOf i s).prev = s.prev := by rw [effectOf_frame]
@[simp] theorem effectOf_chg (i : Instr) (s : State) : (effectOf i s).chg = s.chg := by rw [effectOf_frame]
@[simp] theorem effectOf_dumps (i : Instr) (s : State) : (effectOf i s).dumps = s.dumps := by rw [effectOf_frame]
@[simp] theorem effectOf_pending (i : Instr) (s : State) : (effectOf i s).pending = s.pending := by rw [effectOf_frame]
@[simp] theorem effectOf_answers (i : Instr) (s : State) : (effectOf i s).answers = s.answers := by rw [effectOf_frame]

@[simp] theorem rawByte_effectOf (i : Instr) (s : State) (p : Port) (a : Addr) :
    (effectOf i s).rawByte p a = s.rawByte p a := by
  simp only [State.rawByte, effectOf_raw]

/-- The globals a write leaves, a function of the parameters and the globals before it. -/
def globalsAfter (i : Instr) (pm : Params) (g : Globals) : Globals :=
  match i with
  | .wrLfo v => { g with lfoEnable := dataLfoEnable v, lfoFreq := dataLfoFreq v }
  | .wrTimerB v => { g with timerB := dataTimerB v }
  | .wrMode v =>
    match modeOf v with
    | some special => { withTimerBits v g with special := special }
    | none => if pm.invalidModeUpdatesTimerBits then withTimerBits v g else g
  | .wrDacEn v => { g with dacEnable := dataDacEnable v }
  | _ => g

theorem effectOf_globals (i : Instr) (s : State) :
    (effectOf i s).globals = globalsAfter i s.params s.globals := by
  cases i
  case wrMode v => cases h : modeOf v <;> simp [effectOf, globalsAfter, modeEffect, h]
  case wrKey v => cases h : keyChannel v <;> simp [effectOf, globalsAfter, keyEffect, h]
  case wrFnumLo p co v =>
    simp only [effectOf, globalsAfter, fnumLoEffect, freqEffect_freqTarget]
    split <;> rfl
  case wrFnumHi p co v =>
    simp only [effectOf, globalsAfter, fnumHiEffect, freqEffect_freqTarget]
    split <;> rfl
  all_goals rfl

/-- The events a write emits, at most one (R213). -/
def eventsOf (i : Instr) : List DiagEvent :=
  match i with
  | .wrMode v => match modeOf v with
    | some _ => []
    | none => [⟨.invalidModePattern, 0, 0x27, v⟩]
  | .wrKey v => match keyChannel v with
    | some _ => []
    | none => [⟨.invalidKeyChannel, 0, 0x28, v⟩]
  | .wrUndoc9x p low v => [⟨.unmodelledRegister, p, Instr.addr (.wrUndoc9x p low v), v⟩]
  | .unrecognised p a v => [⟨.unrecognisedRegister, p, a, v⟩]
  | _ => []

theorem effectOf_diag (i : Instr) (s : State) : (effectOf i s).diag = s.diag ++ eventsOf i := by
  cases i
  case wrMode v => cases h : modeOf v <;> simp [effectOf, eventsOf, modeEffect, h]
  case wrKey v => cases h : keyChannel v <;> simp [effectOf, eventsOf, keyEffect, h]
  case wrFnumLo p co v =>
    simp only [effectOf, eventsOf, fnumLoEffect, freqEffect_freqTarget]
    split <;> simp
  case wrFnumHi p co v =>
    simp only [effectOf, eventsOf, fnumHiEffect, freqEffect_freqTarget]
    split <;> simp
  case wrUndoc9x => rfl
  case unrecognised => rfl
  all_goals exact (List.append_nil _).symm

/-- What a write that reaches a channel makes of its fields. -/
def chanSetter (i : Instr) : Channel → Channel :=
  match i with
  | .wrFnumLo _ _ v => setChanFnumLo v
  | .wrFnumHi _ _ v => setChanFnumHi v
  | .wrFbAlg _ _ v => setFbAlg v
  | .wrLrAmsFms _ _ v => setLrAmsFms v
  | _ => id

/-- A channel after an effect: rewritten if it is the write's target, else as before. -/
theorem chan_effectOf (i : Instr) (s : State) (c : ChanIx) :
    (effectOf i s).chan c =
      if Instr.target i s.params s.globals.special = .channel c then chanSetter i (s.chan c) else s.chan c := by
  cases i
  case wrMode v => cases h : modeOf v <;> simp [effectOf, Instr.target, modeEffect, h]
  case wrKey v => cases h : keyChannel v <;> simp [effectOf, Instr.target, keyEffect, h]
  case wrFnumLo p co v =>
    simp only [effectOf, Instr.target, chanSetter, fnumLoEffect, freqTarget]
    split <;> simp
  case wrFnumHi p co v =>
    simp only [effectOf, Instr.target, chanSetter, fnumHiEffect, freqTarget]
    split <;> simp
  all_goals simp [effectOf, Instr.target, chanSetter, lfoEffect, timerBEffect, dacEnEffect, operatorEffect, undocEffect,
    opFnumLoEffect, opFnumHiEffect, fbAlgEffect, lrAmsFmsEffect, unrecognisedEffect]

/-- What a write that reaches operator `o` of a channel makes of its fields. -/
def operSetter (i : Instr) (o : OpIx) : Operator → Operator :=
  match i with
  | .wrDtMul _ _ _ v => setDtMul v
  | .wrTl _ _ _ v => setTl v
  | .wrKsAr _ _ _ v => setKsAr v
  | .wrAmD1r _ _ _ v => setAmD1r v
  | .wrD2r _ _ _ v => setD2r v
  | .wrD1lRr _ _ _ v => setD1lRr v
  | .wrFnumLo _ _ v | .wrOpFnumLo _ _ v => setOperFnumLo v
  | .wrFnumHi _ _ v | .wrOpFnumHi _ _ v => setOperFnumHi v
  | .wrKey v => fun op => { op with enabled := keyFlag v o }
  | _ => id

/-- A write reaches operator `o` of channel `c`: it is its target, or the write is a key write to the channel. -/
def reachesOperator (i : Instr) (pm : Params) (special : Bool) (c : ChanIx) (o : OpIx) : Bool :=
  match i with
  | .wrKey v => keyChannel v = some c
  | _ => Instr.target i pm special = .operator c o

/-- An operator after an effect: rewritten if the write reaches it, else as before. -/
theorem oper_effectOf (i : Instr) (s : State) (c : ChanIx) (o : OpIx) :
    (effectOf i s).oper c o =
      if reachesOperator i s.params s.globals.special c o then operSetter i o (s.oper c o) else s.oper c o := by
  cases i
  case wrMode v => cases h : modeOf v <;> simp [effectOf, reachesOperator, Instr.target, modeEffect, h]
  case wrKey v => cases h : keyChannel v <;> simp [effectOf, reachesOperator, operSetter, keyEffect, h]
  case wrFnumLo p co v =>
    simp only [effectOf, reachesOperator, Instr.target, operSetter, fnumLoEffect, freqTarget]
    split <;> simp
  case wrFnumHi p co v =>
    simp only [effectOf, reachesOperator, Instr.target, operSetter, fnumHiEffect, freqTarget]
    split <;> simp
  all_goals simp [effectOf, reachesOperator, Instr.target, operSetter, lfoEffect, timerBEffect, dacEnEffect,
    operatorEffect, undocEffect, opFnumLoEffect, opFnumHiEffect, fbAlgEffect, lrAmsFmsEffect, unrecognisedEffect]

/-! ## The same, for a write whose target is known -/

theorem chan_effectOf_of_channel {i : Instr} {s : State} {c : ChanIx}
    (h : Instr.target i s.params s.globals.special = .channel c) (d : ChanIx) :
    (effectOf i s).chan d = if d = c then chanSetter i (s.chan c) else s.chan d := by
  rw [chan_effectOf, h]
  by_cases hd : d = c
  · simp [hd]
  · simp [hd, Ne.symm hd]

theorem chan_effectOf_of_operator {i : Instr} {s : State} {c : ChanIx} {o : OpIx}
    (h : Instr.target i s.params s.globals.special = .operator c o) (d : ChanIx) : (effectOf i s).chan d = s.chan d := by
  simp [chan_effectOf, h]

theorem chan_effectOf_of_other {i : Instr} {s : State}
    (h : Instr.target i s.params s.globals.special = .other) (d : ChanIx) : (effectOf i s).chan d = s.chan d := by
  simp [chan_effectOf, h]

theorem reachesOperator_of_target {i : Instr} {pm : Params} {special : Bool}
    (h : Instr.target i pm special ≠ .other) (d : ChanIx) (q : OpIx) :
    reachesOperator i pm special d q = decide (Instr.target i pm special = .operator d q) := by
  cases i
  case wrKey v => exact absurd rfl h
  all_goals rfl

theorem oper_effectOf_of_operator {i : Instr} {s : State} {c : ChanIx} {o : OpIx}
    (h : Instr.target i s.params s.globals.special = .operator c o) (d : ChanIx) (q : OpIx) :
    (effectOf i s).oper d q = if d = c ∧ q = o then operSetter i o (s.oper c o) else s.oper d q := by
  rw [oper_effectOf, reachesOperator_of_target (by simp [h]), h]
  by_cases hd : d = c ∧ q = o
  · obtain ⟨rfl, rfl⟩ := hd
    simp
  · have hd' : ¬(c = d ∧ o = q) := fun h' => hd ⟨h'.1.symm, h'.2.symm⟩
    simp [hd, hd']

theorem oper_effectOf_of_channel {i : Instr} {s : State} {c : ChanIx}
    (h : Instr.target i s.params s.globals.special = .channel c) (d : ChanIx) (q : OpIx) :
    (effectOf i s).oper d q = s.oper d q := by
  rw [oper_effectOf, reachesOperator_of_target (by simp [h]), h]
  simp

/-- No write ever changes a constant index (R27, R30). -/
@[simp] theorem chanSetter_index (i : Instr) (ch : Channel) : (chanSetter i ch).index = ch.index := by
  cases i <;> rfl

@[simp] theorem operSetter_index (i : Instr) (o : OpIx) (op : Operator) : (operSetter i o op).index = op.index := by
  cases i <;> rfl

/-- Every setter assigns its fields from the data byte alone, so that a second run changes nothing (R59). -/
@[simp] theorem chanSetter_idem (i : Instr) (ch : Channel) : chanSetter i (chanSetter i ch) = chanSetter i ch := by
  cases i <;> rfl

@[simp] theorem operSetter_idem (i : Instr) (o : OpIx) (op : Operator) :
    operSetter i o (operSetter i o op) = operSetter i o op := by
  cases i <;> rfl

end Sys2Proof.Machine
end

