-- ==== Sys2Proof/Laws/PerInstr.lean ====
section
/-! SUPPORT. Laws/PerInstr.lean: what is said of every instruction, one lemma per constructor. The family
`SelectorRow`: the selector the encoder gives a well-formed instruction is one that the opcode table gives to the
instruction's own row (spec/opcode_table.json). -/

namespace Sys2Proof.Laws.SelectorRow

/-- The 9-bit selector `p : a` of an instruction (R70). -/
def selector (i : Instr) : Selector := BitVec.ofNat 9 (256 * i.port.val + i.addr.toNat)

/-- The table gives the instruction's selector to the instruction's row. -/
def Statement (i : Instr) : Prop := i.wellFormed = true → tableMnemonic (selector i) = i.mnemonic

theorem wrLfo (v : Byte) : Statement (.wrLfo v) := fun h => by
  simp only [selector, Instr.port, Instr.addr, Instr.mnemonic]; decide
theorem wrTimerB (v : Byte) : Statement (.wrTimerB v) := fun h => by
  simp only [selector, Instr.port, Instr.addr, Instr.mnemonic]; decide
theorem wrMode (v : Byte) : Statement (.wrMode v) := fun h => by
  simp only [selector, Instr.port, Instr.addr, Instr.mnemonic]; decide
theorem wrKey (v : Byte) : Statement (.wrKey v) := fun h => by
  simp only [selector, Instr.port, Instr.addr, Instr.mnemonic]; decide
theorem wrDacData (v : Byte) : Statement (.wrDacData v) := fun h => by
  simp only [selector, Instr.port, Instr.addr, Instr.mnemonic]; decide
theorem wrDacEn (v : Byte) : Statement (.wrDacEn v) := fun h => by
  simp only [selector, Instr.port, Instr.addr, Instr.mnemonic]; decide
theorem wrDtMul (p : Port) (slot : Slot) (co : Offset) (v : Byte) : Statement (.wrDtMul p slot co v) := fun h => by
  simp only [selector, Instr.port, Instr.addr, Instr.mnemonic]; clear h v; revert p slot co; decide
theorem wrTl (p : Port) (slot : Slot) (co : Offset) (v : Byte) : Statement (.wrTl p slot co v) := fun h => by
  simp only [selector, Instr.port, Instr.addr, Instr.mnemonic]; clear h v; revert p slot co; decide
theorem wrKsAr (p : Port) (slot : Slot) (co : Offset) (v : Byte) : Statement (.wrKsAr p slot co v) := fun h => by
  simp only [selector, Instr.port, Instr.addr, Instr.mnemonic]; clear h v; revert p slot co; decide
theorem wrAmD1r (p : Port) (slot : Slot) (co : Offset) (v : Byte) : Statement (.wrAmD1r p slot co v) := fun h => by
  simp only [selector, Instr.port, Instr.addr, Instr.mnemonic]; clear h v; revert p slot co; decide
theorem wrD2r (p : Port) (slot : Slot) (co : Offset) (v : Byte) : Statement (.wrD2r p slot co v) := fun h => by
  simp only [selector, Instr.port, Instr.addr, Instr.mnemonic]; clear h v; revert p slot co; decide
theorem wrD1lRr (p : Port) (slot : Slot) (co : Offset) (v : Byte) : Statement (.wrD1lRr p slot co v) := fun h => by
  simp only [selector, Instr.port, Instr.addr, Instr.mnemonic]; clear h v; revert p slot co; decide
theorem wrUndoc9x (p : Port) (low : Fin 15) (v : Byte) : Statement (.wrUndoc9x p low v) := fun h => by
  simp only [selector, Instr.port, Instr.addr, Instr.mnemonic]; clear h v; revert p low; decide
theorem wrFnumLo (p : Port) (co : Offset) (v : Byte) : Statement (.wrFnumLo p co v) := fun h => by
  simp only [selector, Instr.port, Instr.addr, Instr.mnemonic]; clear h v; revert p co; decide
theorem wrFnumHi (p : Port) (co : Offset) (v : Byte) : Statement (.wrFnumHi p co v) := fun h => by
  simp only [selector, Instr.port, Instr.addr, Instr.mnemonic]; clear h v; revert p co; decide
theorem wrOpFnumLo (p : Port) (co : Offset) (v : Byte) : Statement (.wrOpFnumLo p co v) := fun h => by
  simp only [selector, Instr.port, Instr.addr, Instr.mnemonic]; clear h v; revert p co; decide
theorem wrOpFnumHi (p : Port) (co : Offset) (v : Byte) : Statement (.wrOpFnumHi p co v) := fun h => by
  simp only [selector, Instr.port, Instr.addr, Instr.mnemonic]; clear h v; revert p co; decide
theorem wrFbAlg (p : Port) (co : Offset) (v : Byte) : Statement (.wrFbAlg p co v) := fun h => by
  simp only [selector, Instr.port, Instr.addr, Instr.mnemonic]; clear h v; revert p co; decide
theorem wrLrAmsFms (p : Port) (co : Offset) (v : Byte) : Statement (.wrLrAmsFms p co v) := fun h => by
  simp only [selector, Instr.port, Instr.addr, Instr.mnemonic]; clear h v; revert p co; decide

set_option maxRecDepth 8000 in
/-- Every selector of R86's list is one that no row names. -/
theorem unrecognised_selectors (p : Port) (a : Fin 256)
    (h : unrecognisedSelector p (BitVec.ofFin a) = true) :
    tableMnemonic (BitVec.ofNat 9 (256 * p.val + a.val)) = "UNRECOGNISED" := by
  revert p a; decide

theorem unrecognised (p : Port) (a : Addr) (v : Byte) : Statement (.unrecognised p a v) := fun h =>
  unrecognised_selectors p a.toFin h

end Sys2Proof.Laws.SelectorRow
end

