-- ==== Sys2Proof/Laws/Step.lean ====
section
/-! SUPPORT. Laws/Step.lean: everything one step can do (`step_next_cases`). -/

namespace Sys2Proof.Machine

/-- The state with its first pending operation taken away. -/
def State.popped (s : State) : State := { s with pending := s.pending.tail }

@[simp] theorem State.popped_params (s : State) : s.popped.params = s.params := rfl
@[simp] theorem State.popped_globals (s : State) : s.popped.globals = s.globals := rfl
@[simp] theorem State.popped_channels (s : State) : s.popped.channels = s.channels := rfl
@[simp] theorem State.popped_operators (s : State) : s.popped.operators = s.operators := rfl
@[simp] theorem State.popped_raw (s : State) : s.popped.raw = s.raw := rfl
@[simp] theorem State.popped_fault (s : State) : s.popped.fault = s.fault := rfl
@[simp] theorem State.popped_diag (s : State) : s.popped.diag = s.diag := rfl
@[simp] theorem State.popped_prev (s : State) : s.popped.prev = s.prev := rfl
@[simp] theorem State.popped_chg (s : State) : s.popped.chg = s.chg := rfl
@[simp] theorem State.popped_dumps (s : State) : s.popped.dumps = s.dumps := rfl
@[simp] theorem State.popped_pending (s : State) : s.popped.pending = s.pending.tail := rfl
@[simp] theorem State.popped_answers (s : State) : s.popped.answers = s.answers := rfl
@[simp] theorem State.chan_popped (s : State) (c : ChanIx) : s.popped.chan c = s.chan c := rfl
@[simp] theorem State.oper_popped (s : State) (c : ChanIx) (o : OpIx) : s.popped.oper c o = s.oper c o := rfl
@[simp] theorem State.rawByte_popped (s : State) (p : Port) (a : Addr) : s.popped.rawByte p a = s.rawByte p a := rfl
@[simp] theorem State.snapshot_popped (s : State) (c : ChanIx) : s.popped.snapshot c = s.snapshot c := rfl

/-- A step with an operation pending is that operation, taken from the state without it. -/
theorem step_of_pending {s : State} {op : HostOp} {rest : List HostOp} (h : s.pending = op :: rest) :
    step s = takeOp op s.popped := by
  simp only [step, stepHost, h, State.popped, List.tail_cons]

theorem step_of_idle {s : State} (h : s.pending = []) : step s = whenRunning s s := by
  simp only [step, stepHost, h]

/-- A faulted instance has no step (R215). -/
theorem step_of_faulted {s : State} {code : FaultCode} (h : s.fault = some code) : step s = .fault (.halted code) := by
  cases hp : s.pending with
  | nil => rw [step_of_idle hp, whenRunning_of_faulted h]
  | cons op rest =>
    rw [step_of_pending hp]
    have h' : s.popped.fault = some code := h
    cases op with
    | write t => simp only [takeOp, exec_of_faulted h', thenDetect]
    | channel i => exact whenRunning_of_faulted h' _
    | operator i j => exact whenRunning_of_faulted h' _
    | rawRead p a => exact whenRunning_of_faulted h' _

/-- What a write that is taken leaves: the raw store, the effect of its class, and the detector's run. -/
def afterWrite (t : Transaction) (s : State) : State :=
  detect (effectOf (decode t) (s.popped.storeRaw (decode t).port (decode t).addr (decode t).data))

/-- Everything a step can do when it answers: nothing with nothing pending, a write and the detector after it, a read
port's answer, or the fault of an out-of-range query. -/
theorem step_next_cases {s s' : State} (h : step s = .next s') :
    s.fault = none ∧
    ((s.pending = [] ∧ s' = s) ∨
     (∃ t rest, s.pending = .write t :: rest ∧ s' = afterWrite t s) ∨
     (∃ a, s' = s.popped.answer a) ∨
     (∃ code, s' = s.popped.raiseFault code ∧
       ((∃ i rest, s.pending = .channel i :: rest ∧ 6 ≤ i) ∨
        ∃ i j rest, s.pending = .operator i j :: rest ∧ (6 ≤ i ∨ 4 ≤ j)))) := by
  cases hf : s.fault with
  | some code => rw [step_of_faulted hf] at h; cases h
  | none =>
    refine ⟨rfl, ?_⟩
    have hf' : s.popped.fault = none := hf
    cases hp : s.pending with
    | nil =>
      rw [step_of_idle hp, whenRunning_of_running hf] at h
      exact .inl ⟨rfl, (Host.Outcome.next.inj h).symm⟩
    | cons op rest =>
      rw [step_of_pending hp] at h
      cases op with
      | write t =>
        simp only [takeOp, exec_of_running hf', thenDetect] at h
        exact .inr (.inl ⟨t, rest, rfl, (Host.Outcome.next.inj h).symm⟩)
      | channel i =>
        simp only [takeOp, queryChannel, whenRunning_of_running hf'] at h
        have h := (Host.Outcome.next.inj h).symm
        split at h
        · exact .inr (.inr (.inl ⟨_, h⟩))
        · exact .inr (.inr (.inr ⟨_, h, .inl ⟨i, rest, rfl, by omega⟩⟩))
      | operator i j =>
        simp only [takeOp, queryOperator, whenRunning_of_running hf'] at h
        have h := (Host.Outcome.next.inj h).symm
        split at h
        · split at h
          · exact .inr (.inr (.inl ⟨_, h⟩))
          · exact .inr (.inr (.inr ⟨_, h, .inr ⟨i, j, rest, rfl, by omega⟩⟩))
        · exact .inr (.inr (.inr ⟨_, h, .inr ⟨i, j, rest, rfl, by omega⟩⟩))
      | rawRead p a =>
        simp only [takeOp, readRaw, whenRunning_of_running hf'] at h
        exact .inr (.inr (.inl ⟨_, (Host.Outcome.next.inj h).symm⟩))

end Sys2Proof.Machine
end

