-- ==== Sys2Proof/Tests/Slice0.lean ====
section
/-! SUPPORT. Tests/Slice0.lean: the model's own tests. Expected results are taken from spec/95_test_vectors.md (their
labels VG, VO, VC, VQ are in the comments) or worked out by hand from the layouts of spec/30_encoding.md; words are
written out bit by bit as `p : a : v` (R70). After them stands one witness for every obligation that has hypotheses. -/

namespace Sys2Proof.Tests

open Sys2Proof Sys2Proof.Machine

/-! ## Helpers -/

/-- The next state of an answer, if it is one. -/
def after (r : Result) : Option State :=
  match r with
  | .next s => some s
  | .fault _ => none
  | .refused _ => none

/-- One step of the machine with one operation offered to it. -/
def take (op : HostOp) (s : State) : Option State := after (step (s.present op))

/-- One step of the machine with one write offered to it. -/
def write (p : Port) (a : Addr) (v : Byte) (s : State) : Option State := take (writeOp p a v) s

/-- The reset state in special mode. -/
def specialMode : State := { State.reset with globals := { zeroGlobals with special := true } }

/-- The reset state with every enabled flag of channel 4 set. -/
def channelFourOn : State :=
  State.reset.updateOpers 4 fun _ op => { op with enabled := true }

/-- Parameters other than the defaults: the chip's slot order, another frequency order, the timer bits withheld from an
invalid mode write, and the enabled flags left out of snapshot equality. -/
def otherParams : Params :=
  { opAddrMap := #v[0, 2, 1, 3], opFreqMap := #v[3, 1, 2], invalidModeUpdatesTimerBits := false
    operatorEqFields := [.dt, .mul, .tl, .ks, .ar, .am, .d1r, .d2r, .d1l, .rr, .fnumLo, .fnumHi, .block] }

/-- The reset state under the other parameters. -/
def otherReset : State := State.construct otherParams zeroResetValues

/-- A state of no run: special mode, raw bytes listed, an event, channels and operators written. -/
def busy : State :=
  { (State.reset.updateChan 5 fun ch => { ch with fnumLo := 0x55, alg := 3 }) with
    globals := { zeroGlobals with special := true, timerB := 0x99 }
    raw := [(0x26, 0x99), (0x1A2, 0x55)]
    diag := [⟨.unrecognisedRegister, 1, 0x21, 0x07⟩] }

/-- A state that has faulted. -/
def halted : State := State.reset.raiseFault .channelIndexOutOfBounds

/-- The state with one write offered to it. -/
def offered (p : Port) (a : Addr) (v : Byte) (s : State) : State := s.present (writeOp p a v)

theorem next_of_after {r : Result} (h : (after r).isSome = true) : ∃ t, r = .next t := by
  cases r with
  | next s => exact ⟨s, rfl⟩
  | fault f => simp [after] at h
  | refused f => simp [after] at h

/-! ## Well-formedness: the one check, at each part of its list (R86) -/

theorem test_illFormed_port0 : (Instr.unrecognised 0 0x22 0x00).wellFormed = false := by decide
theorem test_illFormed_port1 : (Instr.unrecognised 1 0x30 0x00).wellFormed = false := by decide
theorem test_illFormed_undoc : (Instr.unrecognised 0 0x9E 0x00).wellFormed = false := by decide
theorem test_illFormed_last : (Instr.unrecognised 1 0xB6 0x00).wellFormed = false := by decide
theorem test_wellFormed_port1_global : (Instr.unrecognised 1 0x27 0x40).wellFormed = true := by decide
theorem test_wellFormed_ends :
    (Instr.unrecognised 0 0x21 0).wellFormed = true ∧ (Instr.unrecognised 0 0x2C 0).wellFormed = true ∧
    (Instr.unrecognised 1 0x8F 0).wellFormed = true ∧ (Instr.unrecognised 0 0x9F 0).wellFormed = true ∧
    (Instr.unrecognised 1 0xB3 0).wellFormed = true ∧ (Instr.unrecognised 0 0xB7 0).wellFormed = true ∧
    (Instr.unrecognised 1 0xFF 0).wellFormed = true := by decide

/-! ## Decoding: a word for every constructor, written out from spec/30_encoding.md -/

theorem test_decode_lfo : decode 0b0_00100010_00001011 = .wrLfo 0x0B := by decide
theorem test_decode_timerB : decode 0b0_00100110_11111111 = .wrTimerB 0xFF := by decide
theorem test_decode_mode : decode 0b0_00100111_01000000 = .wrMode 0x40 := by decide
theorem test_decode_key : decode 0b0_00101000_11110000 = .wrKey 0xF0 := by decide
theorem test_decode_dacData : decode 0b0_00101010_10000000 = .wrDacData 0x80 := by decide
theorem test_decode_dacEn : decode 0b0_00101011_10000000 = .wrDacEn 0x80 := by decide
/-- 0x35 is group 3, slot 1, offset 1. -/
theorem test_decode_dtMul : decode 0b1_00110101_01110000 = .wrDtMul 1 1 1 0x70 := by decide
theorem test_decode_tl : decode 0b1_01001101_01111111 = .wrTl 1 3 1 0x7F := by decide
theorem test_decode_ksAr : decode 0b0_01010010_11011111 = .wrKsAr 0 0 2 0xDF := by decide
theorem test_decode_amD1r : decode 0b0_01100100_10011111 = .wrAmD1r 0 1 0 0x9F := by decide
theorem test_decode_d2r : decode 0b1_01111000_00001010 = .wrD2r 1 2 0 0x0A := by decide
theorem test_decode_d1lRr : decode 0b1_10001110_11110000 = .wrD1lRr 1 3 2 0xF0 := by decide
theorem test_decode_undoc9x : decode 0b1_10011110_00001111 = .wrUndoc9x 1 14 0x0F := by decide
theorem test_decode_fnumLo : decode 0b1_10100010_00010010 = .wrFnumLo 1 2 0x12 := by decide
theorem test_decode_fnumHi : decode 0b0_10100101_11111111 = .wrFnumHi 0 1 0xFF := by decide
theorem test_decode_opFnumLo : decode 0b1_10101010_00010000 = .wrOpFnumLo 1 2 0x10 := by decide
theorem test_decode_opFnumHi : decode 0b0_10101101_00101100 = .wrOpFnumHi 0 1 0x2C := by decide
theorem test_decode_fbAlg : decode 0b0_10110000_00110010 = .wrFbAlg 0 0 0x32 := by decide
theorem test_decode_lrAmsFms : decode 0b1_10110110_11000000 = .wrLrAmsFms 1 2 0xC0 := by decide
theorem test_decode_unrecognised : decode 0b1_00101000_11110000 = .unrecognised 1 0x28 0xF0 := by decide

/-- R88, R90: the transport, and what it rejects by name. -/
theorem test_transport :
    (deliver [0x52, 0x22, 0x0B, 0x53, 0xFF, 0xFF, 0x66, 0x61]).toOption =
      some [.write 0b0_00100010_00001011, .write 0b1_11111111_11111111] ∧
    (deliver [0x52, 0x22]).toOption = none ∧ (deliver [0x50, 0x9F]).toOption = none := by decide

/-- A table word of `WR_MODE` and one of `UNRECOGNISED` on port 1, with a zero data byte. -/
theorem test_tableWord :
    decodeTableWord 16 0x027 = some (.wrMode 0) ∧ decodeTableWord 16 0x127 = some (.unrecognised 1 0x27 0) ∧
    decodeTableWord 24 0x450027 = some (.wrMode 0x45) ∧ decodeTableWord 16 0x227 = none := by decide

/-- A table word placed at reset is what the next step runs. -/
theorem test_withFetchWord :
    ((after (step (State.reset.withFetchWord 24 0x400027))).map fun s => (s.globals.special, s.pending)) =
      some (true, []) := by decide

/-! ## Global registers -/

/-- VG1. -/
theorem test_lfo : (write 0 0x22 0x0B .reset).map (fun s => (s.globals.lfoEnable, s.globals.lfoFreq)) = some (true, 3) := by
  decide
/-- VG2. -/
theorem test_lfo_high_bits : (write 0 0x22 0xF7 .reset).map (fun s => (s.globals.lfoEnable, s.globals.lfoFreq))
    = some (false, 7) := by decide
/-- VG4. -/
theorem test_timerB : (write 0 0x26 0xFF .reset).map (·.globals.timerB) = some 0xFF := by decide
/-- VG8. -/
theorem test_mode_normal : (write 0 0x27 0x15 specialMode).map (·.globals)
    = some { zeroGlobals with resetA := true, enableA := true, loadA := true } := by decide
/-- VG11: the timer bits are withheld by the parameter. -/
theorem test_mode_invalid : (write 0 0x27 0xC3 otherReset).map (fun s => (s.globals, s.diag))
    = some (zeroGlobals, [⟨.invalidModePattern, 0, 0x27, 0xC3⟩]) := by decide
/-- VG14: channel code 6 is channel 5. -/
theorem test_key_on : (write 0 0x28 0x16 .reset).map
    (fun s => ([0, 1, 2, 3] : List OpIx).map fun o => (s.oper 5 o).enabled) = some [true, false, false, false] := by decide
/-- VG15: key-off. -/
theorem test_key_off : (write 0 0x28 0x05 channelFourOn).map
    (fun s => ([0, 1, 2, 3] : List OpIx).map fun o => (s.oper 4 o).enabled) = some [false, false, false, false] := by decide
/-- VG20. -/
theorem test_dacData : (write 0 0x2A 0x80 .reset).map (fun s => (s.globals, s.rawByte 0 0x2A, s.diag))
    = some (zeroGlobals, 0x80, []) := by decide
/-- VG21. -/
theorem test_dacEn : (write 0 0x2B 0x80 .reset).map (·.globals.dacEnable) = some true := by decide

/-! ## Operator registers -/

/-- VO2. -/
theorem test_dtMul : (write 0 0x3E 0xFF .reset).map (fun s => ((s.oper 2 3).dt, (s.oper 2 3).mul)) = some (7, 15) := by
  decide
/-- VO19: another slot order. -/
theorem test_dtMul_map : (write 0 0x34 0x05 otherReset).map (fun s => ((s.oper 0 1).mul, (s.oper 0 2).mul))
    = some (0, 5) := by decide
/-- VO6. -/
theorem test_tl : (write 1 0x4D 0x7F .reset).map (fun s => (s.oper 4 3).tl) = some 0x7F := by decide
/-- VO7. -/
theorem test_ksAr : (write 0 0x52 0xDF .reset).map (fun s => ((s.oper 2 0).ks, (s.oper 2 0).ar)) = some (3, 31) := by
  decide
/-- VO9. -/
theorem test_amD1r : (write 0 0x64 0x9F .reset).map (fun s => ((s.oper 0 1).am, (s.oper 0 1).d1r)) = some (true, 31) := by
  decide
/-- VO11. -/
theorem test_d2r : (write 1 0x78 0x0A .reset).map (fun s => (s.oper 3 2).d2r) = some 10 := by decide
/-- VO13. -/
theorem test_d1lRr : (write 0 0x81 0x2F .reset).map (fun s => ((s.oper 1 0).d1l, (s.oper 1 0).rr)) = some (2, 15) := by
  decide
/-- VO17: an offset-3 address is in the undocumented range. -/
theorem test_undoc9x : (write 1 0x93 0x0F .reset).map (fun s => (s.rawByte 1 0x93, s.diag, s.operators))
    = some (0x0F, [⟨.unmodelledRegister, 1, 0x93, 0x0F⟩], State.reset.operators) := by decide

/-! ## Channel registers -/

/-- VC2, normal mode. -/
theorem test_fnumLo : (write 0 0xA2 0x69 .reset).map (fun s => ((s.chan 2).fnumLo, (s.oper 2 0).fnumLo))
    = some (0x69, 0) := by decide
/-- VC5, special mode on port 1. -/
theorem test_fnumLo_special : (write 1 0xA2 0x12 specialMode).map (fun s => ((s.chan 5).fnumLo, (s.oper 5 0).fnumLo))
    = some (0, 0x12) := by decide
/-- VC6. -/
theorem test_fnumHi : (write 1 0xA4 0x22 .reset).map (fun s => ((s.chan 3).block, (s.chan 3).fnumHi)) = some (4, 2) := by
  decide
/-- VC8, special mode. -/
theorem test_fnumHi_special : (write 0 0xA6 0x1A specialMode).map
    (fun s => ((s.oper 2 0).block, (s.oper 2 0).fnumHi, (s.chan 2).block)) = some (3, 2, 0) := by decide
/-- VC12. -/
theorem test_opFnumLo : (write 1 0xAA 0x10 .reset).map (fun s => (s.oper 5 3).fnumLo) = some 0x10 := by decide
/-- R164 under another frequency order: offset 0 is operator 3. -/
theorem test_opFnumLo_map : (write 0 0xA8 0x77 otherReset).map (fun s => ((s.oper 2 1).fnumLo, (s.oper 2 3).fnumLo))
    = some (0, 0x77) := by decide
/-- VC13. -/
theorem test_opFnumHi : (write 0 0xAD 0x2C .reset).map (fun s => ((s.oper 2 2).block, (s.oper 2 2).fnumHi))
    = some (5, 4) := by decide
/-- VC16. -/
theorem test_fbAlg : (write 0 0xB0 0x32 .reset).map (fun s => ((s.chan 0).fb, (s.chan 0).alg)) = some (6, 2) := by decide
/-- VC20. -/
theorem test_lrAmsFms : (write 0 0xB4 0x7F .reset).map
    (fun s => ((s.chan 0).left, (s.chan 0).right, (s.chan 0).ams, (s.chan 0).fms)) = some (false, true, 3, 7) := by decide
/-- VG12. -/
theorem test_unrecognised : (write 1 0x27 0x40 .reset).map (fun s => (s.globals, s.diag))
    = some (zeroGlobals, [⟨.unrecognisedRegister, 1, 0x27, 0x40⟩]) := by decide

/-! ## Queries, faults and the detector -/

/-- VQ1. -/
theorem test_channel_query : (take (.channel 0) .reset).map (·.answers)
    = some [.channel { zeroChannel with ops := perOperator fun o => { zeroOperator with index := BitVec.ofNat 2 o.val } }] := by
  decide
/-- VQ2. -/
theorem test_operator_query : (take (.operator 5 3) .reset).map (·.answers)
    = some [.operator { zeroOperator with index := 3 }] := by decide
/-- VQ3. -/
theorem test_channel_fault : (take (.channel 6) .reset).map (fun s => (s.fault, s.answers))
    = some (some .channelIndexOutOfBounds, []) := by decide
/-- VQ5. -/
theorem test_operator_fault : (take (.operator 0 4) .reset).map (·.fault)
    = some (some .operatorIndexOutOfBounds) := by decide
/-- VQ6: the channel check comes first. -/
theorem test_channel_check_first : (take (.operator 6 4) .reset).map (·.fault)
    = some (some .channelIndexOutOfBounds) := by decide
/-- VQ7. -/
theorem test_raw_read : (take (.rawRead 1 0x55) .reset).map (fun s => (s.answers, s.fault))
    = some ([.raw 0x00], none) := by decide
/-- VQ3: no step after a fault. -/
theorem test_halted : write 0 0x22 0x0B halted = none := by decide
/-- VQ8: the frequency of a channel is not compared. -/
theorem test_detector_frequency : (write 0 0xA0 0x10 .reset).map (fun s => (s.chg.toList, s.dumps.length))
    = some ([false, false, false, false, false, false], 0) := by decide
/-- VQ10: an enabled flag is compared by default, and the retained snapshot is dumped. -/
theorem test_detector_key : (write 0 0x28 0x10 .reset).map (fun s => (s.chg.toList, s.dumps))
    = some ([true, false, false, false, false, false], [(0, State.reset.snapshot 0)]) := by decide
/-- VQ11: the same write with the enabled flags left out of the parameter. -/
theorem test_detector_key_left_out : (write 0 0x28 0x10 otherReset).map (fun s => (s.chg.toList, s.dumps))
    = some ([false, false, false, false, false, false], []) := by decide
/-- R33: writing the byte that an unlisted cell reads as leaves nothing listed. -/
theorem test_raw_canonical : (write 1 0x55 0x00 .reset).map (·.raw) = some [] := by decide

/-! ## Witnesses: a state and operands that meet every hypothesis of each obligation -/

theorem witness_ConstructionMeetsTheInvariants :
    Memory.wf { zeroResetValues with raw := [(0x22, 0x0B), (0x1FF, 0x80)] }.raw := by decide

theorem busy_inv : { busy with prev := perChannel busy.snapshot }.Inv :=
  ⟨by decide, by decide, by decide, by decide⟩

theorem witness_StepKeepsTheInvariant : ∃ s t : State, s.Inv ∧ s.pending ≠ [] ∧ step s = .next t := by
  obtain ⟨t, ht⟩ := next_of_after (r := step (offered 1 0xA2 0x12 { busy with prev := perChannel busy.snapshot }))
    (by decide)
  exact ⟨_, t, ⟨by decide, by decide, by decide, by decide⟩, by decide, ht⟩

theorem offered_mirrors {s : State} (h : s.MirrorsRaw) (p : Port) (a : Addr) (v : Byte) :
    (offered p a v s).MirrorsRaw :=
  ⟨h.1, h.2, h.3, h.4, h.5, h.6, h.7, h.8, h.9, h.10, h.11, h.12, h.13, h.14⟩

theorem reset_mirrors_raw : State.reset.MirrorsRaw :=
  ⟨by decide, by decide, by decide, by decide, by decide, by decide, by decide, by decide, by decide, by decide,
    by decide, by decide, by decide, by decide⟩

theorem witness_StepKeepsRegistersMirroringRaw :
    ∃ s t : State, s.params.WellFormed ∧ s.MirrorsRaw ∧ s.pending ≠ [] ∧ step s = .next t := by
  obtain ⟨t, ht⟩ := next_of_after (r := step (offered 1 0x4D 0x7F .reset)) (by decide)
  exact ⟨_, t, by decide, offered_mirrors reset_mirrors_raw .., by decide, ht⟩

/-- One state for each clause: a write to channel 1, a write to operator 0 in normal mode, and a frequency write that
changes operator 0 of channel 5 in special mode. -/
theorem witness_OperatorFrequenciesChangeOnlyInSpecialChannels :
    (∃ t, State.reset.params.WellFormed ∧ step (offered 0 0xA1 0x12 .reset) = .next t) ∧
    (∃ t, State.reset.globals.special = false ∧ step (offered 0 0xA2 0x12 .reset) = .next t) ∧
    (write 1 0xA2 0x12 specialMode).map (fun s => decide ((s.oper 5 0).fnumLo ≠ (specialMode.oper 5 0).fnumLo))
      = some true ∧
    (write 0 0xAE 0x3F specialMode).map (fun s => decide ((s.oper 2 3).block ≠ (specialMode.oper 2 3).block))
      = some true := by
  obtain ⟨t, ht⟩ := next_of_after (r := step (offered 0 0xA1 0x12 .reset)) (by decide)
  obtain ⟨u, hu⟩ := next_of_after (r := step (offered 0 0xA2 0x12 .reset)) (by decide)
  exact ⟨⟨t, by decide, ht⟩, ⟨u, by decide, hu⟩, by decide, by decide⟩

theorem witness_GlobalAddressesDecode :
    (0x20 : Addr) ≤ 0x20 ∧ (0x20 : Addr) ≤ 0x2F ∧ (0x20 : Addr) ≤ 0x2F ∧ (0x2F : Addr) ≤ 0x2F := by decide

/-- 0x30 and 0x8E are the first and the last operator address, 0x33 and 0x8F the first and the last hole. -/
theorem witness_OperatorGroupsDecode :
    (BitVec.extractLsb' 0 2 (0x30 : Addr)).toNat = (0 : Offset).val ∧ BitVec.extractLsb' 4 4 (0x30 : Addr) = 0x3 ∧
    BitVec.extractLsb' 4 4 (0x45 : Addr) = 0x4 ∧ BitVec.extractLsb' 4 4 (0x52 : Addr) = 0x5 ∧
    BitVec.extractLsb' 4 4 (0x64 : Addr) = 0x6 ∧ BitVec.extractLsb' 4 4 (0x78 : Addr) = 0x7 ∧
    (BitVec.extractLsb' 0 2 (0x8E : Addr)).toNat = (2 : Offset).val ∧ BitVec.extractLsb' 4 4 (0x8E : Addr) = 0x8 ∧
    BitVec.extractLsb' 0 2 (0x33 : Addr) = 3 ∧ (0x3 : BitVec 4) ≤ BitVec.extractLsb' 4 4 (0x33 : Addr) ∧
    BitVec.extractLsb' 0 2 (0x8F : Addr) = 3 ∧ BitVec.extractLsb' 4 4 (0x8F : Addr) ≤ 0x8 := by decide

theorem witness_UndocumentedGroupDecodes :
    ((0x90 : Addr) ≤ 0x90 ∧ (0x90 : Addr) ≤ 0x9E) ∧ ((0x90 : Addr) ≤ 0x9E ∧ (0x9E : Addr) ≤ 0x9E) := by decide

theorem witness_AlgorithmAndStereoDecode :
    ((0xB3 : Addr) = 0xB3 ∨ (0xB7 : Addr) ≤ 0xB3) ∧ ((0xB7 : Addr) = 0xB3 ∨ (0xB7 : Addr) ≤ 0xB7) ∧
    ((0xFF : Addr) = 0xB3 ∨ (0xB7 : Addr) ≤ 0xFF) := by decide

/-- A selector a row names, and one no row names. -/
theorem witness_DecodeFollowsTheOpcodeTable :
    (∃ r ∈ opcodeRows, r.hits (Transaction.selector 0b0_00100111_01000000) = true) ∧
    (∀ r ∈ opcodeRows, r.hits (Transaction.selector 0b1_00100111_01000000) = false) := by decide

theorem witness_DecodingAnEncodedInstructionGivesItBack :
    (Instr.wrKey 0xF1).wellFormed = true ∧ (Instr.unrecognised 1 0x27 0x40).wellFormed = true := by decide

theorem witness_PseudoInstructionsReachWhatTheyName :
    otherParams.WellFormed ∧ defaultParams.WellFormed ∧ (0x3 : BitVec 4) ≤ 0x3 ∧ (0x3 : BitVec 4) ≤ 0x8 ∧
    (0x3 : BitVec 4) ≤ 0x8 ∧ (0x8 : BitVec 4) ≤ 0x8 ∧ busy.fault = none := by decide

theorem witness_LfoWriteSetsEnableAndFrequency : busy.fault = none := by decide
theorem witness_TimerBWriteSetsTheReloadValue : busy.fault = none := by decide

/-- The two legal and the two invalid patterns, and both values of the parameter. -/
theorem witness_ModeWriteFollowsItsPattern :
    busy.fault = none ∧ busy.params.invalidModeUpdatesTimerBits = true ∧
    otherReset.fault = none ∧ otherReset.params.invalidModeUpdatesTimerBits = false ∧
    BitVec.extractLsb' 6 2 (0x3F : Byte) = 0b00 ∧ BitVec.extractLsb' 6 2 (0x7F : Byte) = 0b01 ∧
    BitVec.extractLsb' 6 2 (0x80 : Byte) = 0b10 ∧ BitVec.extractLsb' 6 2 (0xFF : Byte) = 0b11 := by decide

/-- The first and the last channel code, the first one past the gap, and both invalid ones. -/
theorem witness_KeyWriteFollowsItsChannelCode :
    channelFourOn.fault = none ∧
    BitVec.extractLsb' 0 3 (0xF0 : Byte) =
      (#v[0b000, 0b001, 0b010, 0b100, 0b101, 0b110] : Vector (BitVec 3) 6)[(0 : ChanIx).val] ∧
    BitVec.extractLsb' 0 3 (0x14 : Byte) =
      (#v[0b000, 0b001, 0b010, 0b100, 0b101, 0b110] : Vector (BitVec 3) 6)[(3 : ChanIx).val] ∧
    BitVec.extractLsb' 0 3 (0x0E : Byte) =
      (#v[0b000, 0b001, 0b010, 0b100, 0b101, 0b110] : Vector (BitVec 3) 6)[(5 : ChanIx).val] ∧
    BitVec.extractLsb' 0 3 (0xF3 : Byte) = 0b011 ∧ BitVec.extractLsb' 0 3 (0x07 : Byte) = 0b111 := by decide

theorem witness_DacDataWriteReachesTheRawMapAlone : busy.fault = none := by decide
theorem witness_DacEnableWriteSetsTheEnableBit : busy.fault = none := by decide
theorem witness_DtMulWriteSetsDetuneAndMultiply : otherReset.fault = none := by decide
theorem witness_TlWriteSetsTotalLevel : otherReset.fault = none := by decide
theorem witness_KsArWriteSetsScalingAndAttack : otherReset.fault = none := by decide
theorem witness_AmD1rWriteSetsModulationAndDecay : otherReset.fault = none := by decide
theorem witness_D2rWriteSetsSecondDecay : otherReset.fault = none := by decide
theorem witness_D1lRrWriteSetsAmplitudeAndRelease : otherReset.fault = none := by decide
theorem witness_UndocumentedWriteIsStoredAndLoggedOnly : busy.fault = none := by decide

/-- The redirected case, and the two ways not to be redirected: the mode and the offset. -/
theorem witness_FnumLoWriteFollowsTheMode :
    (busy.fault = none ∧ (2 : Offset) = 2 ∧ busy.globals.special = true) ∧
    (State.reset.fault = none ∧ ¬((2 : Offset) = 2 ∧ State.reset.globals.special = true)) ∧
    ¬((1 : Offset) = 2 ∧ busy.globals.special = true) := by decide

theorem witness_FnumHiWriteFollowsTheMode :
    (busy.fault = none ∧ (2 : Offset) = 2 ∧ busy.globals.special = true) ∧
    (State.reset.fault = none ∧ ¬((2 : Offset) = 2 ∧ State.reset.globals.special = true)) ∧
    ¬((0 : Offset) = 2 ∧ busy.globals.special = true) := by decide

theorem witness_OpFnumLoWriteIgnoresTheMode : otherReset.fault = none ∧ otherReset.params.WellFormed := by decide
theorem witness_OpFnumHiWriteIgnoresTheMode : otherReset.fault = none ∧ otherReset.params.WellFormed := by decide
theorem witness_FbAlgWriteSetsFeedbackAndAlgorithm : busy.fault = none := by decide
theorem witness_LrAmsFmsWriteSetsStereoAndSensitivity : busy.fault = none := by decide
theorem witness_UnrecognisedWriteIsLoggedOnly : busy.fault = none := by decide

/-- The clauses: a pending write, which exec takes; an encoded instruction; a table word; an idle state. -/
theorem witness_StepRunsTheDecodedInstruction :
    (offered 0 0x27 0x45 busy).pending = .write (Transaction.pack 0 0x27 0x45) :: [] ∧
    (∃ t, exec (decode (Transaction.pack 0 0x27 0x45)) { offered 0 0x27 0x45 busy with pending := [] } = .next t) ∧
    ((Instr.wrMode 0x45).wellFormed = true ∧ (busy.present (.write (encode (.wrMode 0x45)))).pending
      = .write (encode (.wrMode 0x45)) :: []) ∧
    decodeTableWord 24 0x450027 = some (.wrMode 0x45) ∧
    (busy.fault = none ∧ busy.pending = []) :=
  ⟨by decide, next_of_after (by decide), by decide, by decide, by decide⟩

theorem witness_EveryWriteCompletesAndStoresItsByte :
    (offered 1 0xFF 0xFF busy).fault = none ∧
    (offered 1 0xFF 0xFF busy).pending = .write (Transaction.pack 1 0xFF 0xFF) :: [] := by decide

theorem witness_WriteEmitsTheDiagnosticOfItsCause :
    (offered 0 0x28 0xF3 busy).fault = none ∧
    (offered 0 0x28 0xF3 busy).pending = .write (Transaction.pack 0 0x28 0xF3) :: [] := by decide

theorem witness_OutputsOnlyGrow : ∃ t, step (offered 0 0x28 0x10 .reset) = .next t :=
  next_of_after (by decide)

/-- The last channel, and the first index out of bounds. -/
theorem witness_ChannelQueryReturnsTheSnapshotOrFaults :
    busy.fault = none ∧ (busy.present (.channel 5)).pending = .channel 5 :: [] ∧ (5 : ChanIx).val = 5 ∧
    (busy.present (.channel 6)).pending = .channel 6 :: [] ∧ 6 ≤ 6 := by decide

/-- The last operator, each index first out of bounds alone, and both out of bounds. -/
theorem witness_OperatorQueryChecksTheChannelFirst :
    busy.fault = none ∧ (busy.present (.operator 5 3)).pending = .operator 5 3 :: [] ∧
    (5 : ChanIx).val = 5 ∧ (3 : OpIx).val = 3 ∧
    (busy.present (.operator 5 4)).pending = .operator 5 4 :: [] ∧ 5 < 6 ∧ 4 ≤ 4 ∧
    (busy.present (.operator 6 4)).pending = .operator 6 4 :: [] ∧ 6 ≤ 6 := by decide

theorem witness_RawReadReturnsTheByte :
    busy.fault = none ∧ (busy.present (.rawRead 1 0xA2)).pending = .rawRead 1 0xA2 :: [] := by decide

theorem witness_FaultIsFatalAndSticky :
    (take (.operator 5 4) busy).map (·.fault) = some (some .operatorIndexOutOfBounds) ∧
    halted.fault = some .channelIndexOutOfBounds := by decide

theorem witness_OnlyOutOfRangeQueriesFault :
    (∃ t, step (busy.present (.channel 6)) = .next t) ∧ (∃ t, step (busy.present (.operator 6 0)) = .next t) ∧
    (∃ t, step (busy.present (.operator 5 4)) = .next t) :=
  ⟨next_of_after (by decide), next_of_after (by decide), next_of_after (by decide)⟩

theorem witness_WritesAreIdempotent :
    ∃ t u, exec (.wrMode 0x80) busy = .next t ∧ exec (.wrMode 0x80) t = .next u := by
  obtain ⟨t, ht⟩ := next_of_after (r := exec (.wrMode 0x80) busy) (by decide)
  refine ⟨t, ?_⟩
  cases ht
  obtain ⟨u, hu⟩ := next_of_after (r := exec (.wrMode 0x80)
    (modeEffect 0x80 (busy.storeRaw 0 0x27 0x80))) (by decide)
  exact ⟨u, rfl, hu⟩

/-- Two states that differ in the raw maps, a timer field and the diagnostic output. -/
theorem witness_WritesReadNoRawTimerOrDiagnosticState :
    let s' : State := { busy with raw := [], diag := [], globals := { busy.globals with timerB := 0 } }
    busy.params = s'.params ∧ busy.channels = s'.channels ∧ busy.operators = s'.operators ∧
    busy.globals.special = s'.globals.special ∧
    (∃ t, exec (.wrFnumLo 1 2 0x12) busy = .next t) ∧ ∃ t, exec (.wrFnumLo 1 2 0x12) s' = .next t :=
  ⟨by decide, by decide, by decide, by decide, next_of_after (by decide), next_of_after (by decide)⟩

theorem witness_OnlyOffsetTwoFrequencyWritesReadTheMode :
    Transaction.addr (Transaction.pack 0 0xA1 0x69) ≠ 0xA2 ∧ Transaction.addr (Transaction.pack 0 0xA1 0x69) ≠ 0xA6 ∧
    (∃ t, exec (decode (Transaction.pack 0 0xA1 0x69)) busy = .next t) ∧
    ∃ t, exec (decode (Transaction.pack 0 0xA1 0x69))
      { busy with globals := { busy.globals with special := false } } = .next t :=
  ⟨by decide, by decide, next_of_after (by decide), next_of_after (by decide)⟩

theorem witness_ModeWriteGovernsLaterFrequencyWrites : busy.fault = none ∧
    BitVec.extractLsb' 6 2 (0x00 : Byte) = 0b00 ∧ BitVec.extractLsb' 6 2 (0x40 : Byte) = 0b01 := by decide

theorem witness_FrequencyWritesCommute :
    busy.fault = none ∧ Memory.wf busy.raw ∧
    (Instr.wrFnumHi 1 2 0x1A = .wrFnumHi 1 2 0x1A ∨ Instr.wrFnumHi 1 2 0x1A = .wrOpFnumHi 1 2 0x1A) ∧
    (Instr.wrOpFnumLo 1 2 0x69 = .wrFnumLo 1 2 0x69 ∨ Instr.wrOpFnumLo 1 2 0x69 = .wrOpFnumLo 1 2 0x69) := by decide

/-- The premises on the two writes. -/
abbrev Apart (s : State) (w x : Transaction) : Prop :=
  Transaction.selector w ≠ Transaction.selector x ∧ ¬OrderMatters s w x ∧ ¬OrderMatters s x w

/-- In special mode: two writes to one channel, a mode byte with a frequency byte that never redirects, and the two kinds
of mode byte that leave the mode as it is, the invalid one and the special one, with a redirected frequency byte. -/
theorem witness_OtherWritesToDifferentAddressesCommute :
    (busy.fault = none ∧ Memory.wf busy.raw ∧ busy.params.WellFormed ∧ busy.globals.special = true) ∧
    Apart busy (Transaction.pack 1 0xA6 0x1A) (Transaction.pack 1 0xB2 0x32) ∧
    Apart busy (Transaction.pack 0 0x27 0x00) (Transaction.pack 0 0xA1 0x69) ∧
    Apart busy (Transaction.pack 0 0x27 0x80) (Transaction.pack 1 0xA6 0x1A) ∧
    Apart busy (Transaction.pack 0 0x27 0x7F) (Transaction.pack 1 0xA6 0x1A) := by
  unfold Apart OrderMatters
  exact ⟨by decide, by decide, by decide, by decide, by decide⟩

/-- A run that goes on, and one that faults at its query. -/
theorem witness_RunsOfWritesSucceedAndCompose :
    busy.fault = none ∧ busy.pending = [] ∧
    (∃ t, runOps [writeOp 0 0x22 0x0B, .channel 0] State.reset = .next t) ∧
    runOps [.channel 6, writeOp 0 0x22 0x0B] State.reset = .fault (.halted .channelIndexOutOfBounds) :=
  ⟨by decide, by decide, next_of_after (by decide), rfl⟩

theorem witness_SnapshotEqualityComparesTheListedParts : (busy.oper 5 3).index = (State.reset.oper 0 3).index := by decide

theorem witness_DetectorRunsAfterEveryWrite :
    (offered 0 0x40 0x01 busy).fault = none ∧
    (offered 0 0x40 0x01 busy).pending = .write (Transaction.pack 0 0x40 0x01) :: [] := by decide

/-- A write of the byte that is there already, and each kind of write that the last clause names. -/
theorem witness_WriteThatChangesNothingEndsEveryRunOfChanges :
    (offered 0 0x40 0x00 .reset).Inv ∧ (offered 0 0x40 0x00 .reset).fault = none ∧
    (after (exec (decode (Transaction.pack 0 0x40 0x00)) (offered 0 0x40 0x00 .reset))).map
      (fun t => decide (t.channels = State.reset.channels ∧ t.operators = State.reset.operators)) = some true ∧
    unrecognisedSelector 1 0x27 = true ∧ ((0x20 : Addr) ≤ 0x27 ∧ (0x27 : Addr) ≤ 0x27) ∧
    ((0x29 : Addr) ≤ 0x2B ∧ (0x2B : Addr) ≤ 0x2F) ∧ BitVec.extractLsb' 0 2 (0xF7 : Byte) = 0b11 ∧
    ((0x90 : Addr) ≤ 0x9E ∧ (0x9E : Addr) ≤ 0x9F) :=
  ⟨⟨by decide, by decide, by decide, by decide⟩, by decide, by decide, by decide, by decide, by decide, by decide,
    by decide⟩

end Sys2Proof.Tests
end

/-! ## Decoding loses nothing: a decoded transaction encodes back to itself

So the instruction's own port and address are the transaction's, and a proof can go from what an instruction does to
the address it was written at without opening the decoder. -/

namespace Sys2Proof

theorem val_of_offsetOf {a : Addr} {co : Offset} (h : offsetOf a = some co) : (a.extractLsb' 0 2).toNat = co.val := by
  simp only [offsetOf, Option.dite_none_right_eq_some, Option.some.injEq] at h
  obtain ⟨-, rfl⟩ := h
  rfl

/-- R71: an address that names a channel is its three fields. -/
theorem regAddr_of_fields {a : Addr} {grp : Fin 16} {co : Offset} (hg : groupOf a = grp.val)
    (ho : offsetOf a = some co) : regAddr grp (slotOf a) co = a := by
  have hs : (slotOf a).val = a.toNat / 2 ^ 2 % 2 ^ 2 := by
    show (a.extractLsb' 2 2).toNat = _
    rw [BitVec.extractLsb'_toNat, Nat.shiftRight_eq_div_pow]
  have ha := a.isLt
  have hco := val_of_offsetOf ho
  simp only [groupOf, BitVec.extractLsb'_toNat, Nat.shiftRight_eq_div_pow] at hg hco
  apply BitVec.eq_of_toNat_eq
  simp only [regAddr, BitVec.toNat_ofNat]
  omega

theorem encode_decodeGlobal (p : Port) (a : Addr) (v : Byte) :
    encode (decodeGlobal p a v) = Transaction.pack p a v := by
  have at_literal : ∀ {i : Instr} {n : Nat}, a.toNat = n →
      encode i = Transaction.pack 0 (BitVec.ofNat 8 n) v → encode i = Transaction.pack 0 a v := by
    intro i n ha hi
    rw [hi, ← ha, BitVec.ofNat_toNat, BitVec.setWidth_eq]
  simp only [decodeGlobal]
  split
  case isTrue hp =>
    subst hp
    split
    case h_7 => rfl
    all_goals exact at_literal ‹_› rfl
  case isFalse => rfl

theorem encode_decodeOperatorGroup {cls : Port → Slot → Offset → Byte → Instr} {p : Port} {a : Addr} {v : Byte}
    {grp : Fin 16} (hg : groupOf a = grp.val)
    (hcls : ∀ slot co, encode (cls p slot co v) = Transaction.pack p (regAddr grp slot co) v) :
    encode (decodeOperatorGroup cls p a v) = Transaction.pack p a v := by
  simp only [decodeOperatorGroup]
  split
  case h_1 co ho => rw [hcls, regAddr_of_fields hg ho]
  case h_2 => rfl

theorem encode_decodeUndocumented {p : Port} {a : Addr} {v : Byte} (hg : groupOf a = 9) :
    encode (decodeUndocumented p a v) = Transaction.pack p a v := by
  simp only [decodeUndocumented]
  split
  case isTrue =>
    have ha := a.isLt
    have haddr : BitVec.ofNat 8 (0x90 + (a.extractLsb' 0 4).toNat) = a := by
      apply BitVec.eq_of_toNat_eq
      simp only [groupOf, BitVec.extractLsb'_toNat, Nat.shiftRight_eq_div_pow, BitVec.toNat_ofNat] at hg ⊢
      omega
    exact congrArg (Transaction.pack p · v) haddr
  case isFalse => rfl

theorem encode_decodeFrequency {p : Port} {a : Addr} {v : Byte} (hg : groupOf a = 10) :
    encode (decodeFrequency p a v) = Transaction.pack p a v := by
  simp only [decodeFrequency]
  split
  case h_1 co ho =>
    have haddr := regAddr_of_fields (grp := 0xA) hg ho
    split
    all_goals
      rename_i hs
      rw [hs] at haddr
      exact congrArg (Transaction.pack p · v) haddr
  case h_2 => rfl

theorem encode_decodeVoice {p : Port} {a : Addr} {v : Byte} (hg : groupOf a = 11) :
    encode (decodeVoice p a v) = Transaction.pack p a v := by
  simp only [decodeVoice]
  split
  case h_1 co ho =>
    have haddr := regAddr_of_fields (grp := 0xB) hg ho
    split
    case h_1 hs | h_2 hs => rw [hs] at haddr; exact congrArg (Transaction.pack p · v) haddr
    case h_3 | h_4 => rfl
  case h_2 => rfl

/-- R84: every selector's instruction is written back at that selector, with the same data byte. -/
theorem encode_decodeSelector (p : Port) (a : Addr) (v : Byte) :
    encode (decodeSelector p a v) = Transaction.pack p a v := by
  simp only [decodeSelector]
  split
  case h_1 => exact encode_decodeGlobal p a v
  case h_2 hg => exact encode_decodeOperatorGroup (grp := 0x3) hg fun _ _ => rfl
  case h_3 hg => exact encode_decodeOperatorGroup (grp := 0x4) hg fun _ _ => rfl
  case h_4 hg => exact encode_decodeOperatorGroup (grp := 0x5) hg fun _ _ => rfl
  case h_5 hg => exact encode_decodeOperatorGroup (grp := 0x6) hg fun _ _ => rfl
  case h_6 hg => exact encode_decodeOperatorGroup (grp := 0x7) hg fun _ _ => rfl
  case h_7 hg => exact encode_decodeOperatorGroup (grp := 0x8) hg fun _ _ => rfl
  case h_8 hg => exact encode_decodeUndocumented hg
  case h_9 hg => exact encode_decodeFrequency hg
  case h_10 hg => exact encode_decodeVoice hg
  case h_11 => rfl

@[simp] theorem encode_decode (w : Transaction) : encode (decode w) = w := by
  rw [decode, encode_decodeSelector, Transaction.pack_fields]

@[simp] theorem Instr.port_decode (w : Transaction) : (decode w).port = Transaction.port w := by
  rw [← Transaction.port_pack (decode w).port (decode w).addr (decode w).data]
  exact congrArg Transaction.port (encode_decode w)

@[simp] theorem Instr.addr_decode (w : Transaction) : (decode w).addr = Transaction.addr w := by
  rw [← Transaction.addr_pack (decode w).port (decode w).addr (decode w).data]
  exact congrArg Transaction.addr (encode_decode w)

@[simp] theorem Instr.data_decode (w : Transaction) : (decode w).data = Transaction.data w := by
  rw [← Transaction.data_pack (decode w).port (decode w).addr (decode w).data]
  exact congrArg Transaction.data (encode_decode w)

end Sys2Proof

/-! ## Operator frequencies (R31) -/

namespace Sys2Proof.Machine

/-- The frequency fields of an operator (R30). -/
def Operator.freq (op : Operator) : BitVec 8 × BitVec 3 × BitVec 3 := (op.fnumLo, op.fnumHi, op.block)

theorem Operator.freq_eq_iff {x y : Operator} :
    x.freq = y.freq ↔ x.fnumLo = y.fnumLo ∧ x.fnumHi = y.fnumHi ∧ x.block = y.block := by
  simp only [freq, Prod.mk.injEq]

/-- R31: a write to `(p, a)` under the mode bit `special` may reach the frequency fields of operator `o` of channel `c`:
operator 0 by 0xA2 and 0xA6 in special mode, operators 1 to 3 by 0xA8-0xAA and 0xAC-0xAE. -/
def MayWriteFreq (special : Bool) (p : Port) (a : Addr) (c : ChanIx) (o : OpIx) : Prop :=
  c = specialChannel p ∧
    ((o = 0 ∧ special = true ∧ (a = 0xA2 ∨ a = 0xA6)) ∨
     (o ≠ 0 ∧ ((0xA8 ≤ a ∧ a ≤ 0xAA) ∨ (0xAC ≤ a ∧ a ≤ 0xAE))))

theorem specialChannel_eq (p : Port) : specialChannel p = 2 ∨ specialChannel p = 5 := by
  revert p; decide

theorem MayWriteFreq.channel {special : Bool} {p : Port} {a : Addr} {c : ChanIx} {o : OpIx}
    (h : MayWriteFreq special p a c o) : c = 2 ∨ c = 5 :=
  h.1 ▸ specialChannel_eq p

theorem MayWriteFreq.special {special : Bool} {p : Port} {a : Addr} {c : ChanIx}
    (h : MayWriteFreq special p a c 0) : special = true := by
  obtain ⟨-, ⟨-, hs, -⟩ | ⟨ho, -⟩⟩ := h
  · exact hs
  · exact absurd rfl ho

/-- R80: a frequency write is redirected to an operator at offset 2 in special mode only, and then to operator 0. -/
theorem freqTarget_eq_operator_iff {p : Port} {co : Offset} {special : Bool} {c : ChanIx} {o : OpIx} :
    freqTarget p co special = .operator c o ↔ (co = 2 ∧ special = true) ∧ specialChannel p = c ∧ 0 = o := by
  simp only [freqTarget]
  split <;> simp [*]

theorem mayWriteFreq_of_redirected {p : Port} {co : Offset} {special : Bool} {a : Addr} {c : ChanIx} {o : OpIx}
    (ha : co = 2 → a = 0xA2 ∨ a = 0xA6) (h : freqTarget p co special = .operator c o) :
    MayWriteFreq special p a c o := by
  obtain ⟨⟨hco, hs⟩, hc, ho⟩ := freqTarget_eq_operator_iff.mp h
  exact ⟨hc.symm, .inl ⟨ho.symm, hs, ha hco⟩⟩

theorem mayWriteFreq_of_direct {pm : Params} (hwf : pm.WellFormed) {p : Port} {co : Offset} {special : Bool} {a : Addr}
    {c : ChanIx} {o : OpIx} (ha : (0xA8 ≤ a ∧ a ≤ 0xAA) ∨ (0xAC ≤ a ∧ a ≤ 0xAE))
    (h : Target.operator (specialChannel p) (pm.operatorOfFreq co) = .operator c o) : MayWriteFreq special p a c o := by
  obtain ⟨-, -, hne0⟩ := hwf
  obtain ⟨hc, ho⟩ := Target.operator.inj h
  exact ⟨hc.symm, .inr ⟨ho ▸ hne0 co, ha⟩⟩

theorem regAddr_opFnumLo_range (co : Offset) : 0xA8 ≤ regAddr 0xA 2 co ∧ regAddr 0xA 2 co ≤ 0xAA := by
  revert co; decide

theorem regAddr_opFnumHi_range (co : Offset) : 0xAC ≤ regAddr 0xA 3 co ∧ regAddr 0xA 3 co ≤ 0xAE := by
  revert co; decide

/-- A write leaves an operator's frequency fields as they are, or is one of those that R31 names. -/
theorem freq_effectOf_cases (i : Instr) {s : State} (hwf : s.params.WellFormed) (c : ChanIx) (o : OpIx) :
    ((effectOf i s).oper c o).freq = (s.oper c o).freq ∨
      MayWriteFreq s.globals.special i.port i.addr c o := by
  rw [oper_effectOf]
  split
  case isFalse => exact .inl rfl
  case isTrue hreach =>
    cases i
    case wrFnumLo p co v =>
      exact .inr (mayWriteFreq_of_redirected (fun hco => .inl (congrArg (regAddr 0xA 0) hco)) (of_decide_eq_true hreach))
    case wrFnumHi p co v =>
      exact .inr (mayWriteFreq_of_redirected (fun hco => .inr (congrArg (regAddr 0xA 1) hco)) (of_decide_eq_true hreach))
    case wrOpFnumLo p co v =>
      exact .inr (mayWriteFreq_of_direct hwf (.inl (regAddr_opFnumLo_range co)) (of_decide_eq_true hreach))
    case wrOpFnumHi p co v =>
      exact .inr (mayWriteFreq_of_direct hwf (.inr (regAddr_opFnumHi_range co)) (of_decide_eq_true hreach))
    all_goals exact .inl rfl

/-- A step leaves an operator's frequency fields as they are, or took a write that R31 names. -/
theorem freq_step_cases {s t : State} (hwf : s.params.WellFormed) (h : step s = .next t) (c : ChanIx) (o : OpIx) :
    (t.oper c o).freq = (s.oper c o).freq ∨
      ∃ (w : Transaction) (rest : List HostOp), s.pending = .write w :: rest ∧
        MayWriteFreq s.globals.special (Transaction.port w) (Transaction.addr w) c o := by
  obtain ⟨-, ⟨-, rfl⟩ | ⟨w, rest, hp, rfl⟩ | ⟨a, rfl⟩ | ⟨code, rfl, -⟩⟩ := step_next_cases h
  · exact .inl rfl
  · have hw := freq_effectOf_cases (decode w)
      (s := s.popped.storeRaw (decode w).port (decode w).addr (decode w).data) hwf c o
    rw [Instr.port_decode, Instr.addr_decode] at hw
    rw [afterWrite, oper_detect, Instr.port_decode, Instr.addr_decode]
    exact hw.imp id fun hw => ⟨w, rest, hp, hw⟩
  · exact .inl rfl
  · exact .inl rfl

/-- Settles O5: what one step can do to an operator's frequency fields (`freq_step_cases`), read three ways. -/
theorem operatorFrequenciesChangeOnlyInSpecialChannels :
    Obligations.OperatorFrequenciesChangeOnlyInSpecialChannels := by
  intro s t hwf hstep
  refine ⟨fun c o h2 h5 => ?_, fun hs c => ?_, fun c o hne => ?_⟩
  · obtain heq | ⟨w, rest, -, hw⟩ := freq_step_cases hwf hstep c o
    · exact Operator.freq_eq_iff.mp heq
    · exact (hw.channel.elim h2 h5).elim
  · obtain heq | ⟨w, rest, -, hw⟩ := freq_step_cases hwf hstep c 0
    · exact Operator.freq_eq_iff.mp heq
    · simp [hw.special] at hs
  · refine (freq_step_cases hwf hstep c o).resolve_left fun heq => ?_
    obtain ⟨hlo, hhi, hblock⟩ := Operator.freq_eq_iff.mp heq
    exact hne.elim (· hlo) (·.elim (· hhi) (· hblock))

/-! ## What the mode bit does not reach (R23, R83) -/

/-- The same state with the mode bit `b`. -/
def State.withMode (s : State) (b : Bool) : State := s.updateGlobals fun g => { g with special := b }

/-- R80: the target of a write depends on the mode bit at 0xA2 and 0xA6 only. -/
theorem target_mode_irrelevant {i : Instr} (h2 : i.addr ≠ 0xA2) (h6 : i.addr ≠ 0xA6) (pm : Params) (b b' : Bool) :
    Instr.target i pm b = Instr.target i pm b' := by
  have unredirected : ∀ {p co}, co ≠ 2 → freqTarget p co b = freqTarget p co b' := by
    intro p co hco
    simp only [freqTarget, hco, false_and, if_false]
  cases i
  case wrFnumLo p co v => exact unredirected fun hco => h2 (by subst hco; rfl)
  case wrFnumHi p co v => exact unredirected fun hco => h6 (by subst hco; rfl)
  all_goals rfl

theorem reachesOperator_mode_irrelevant {i : Instr} (h2 : i.addr ≠ 0xA2) (h6 : i.addr ≠ 0xA6) (pm : Params)
    (b b' : Bool) (c : ChanIx) (o : OpIx) : reachesOperator i pm b c o = reachesOperator i pm b' c o := by
  have ht := target_mode_irrelevant h2 h6 pm b b'
  cases i
  case wrKey v => rfl
  all_goals exact congrArg (fun t => decide (t = Target.operator c o)) ht

/-- The mode bit that a write assigns, if it assigns one: a mode byte of a legal pattern does (R104, R105). -/
def modeAssigned (i : Instr) : Option Bool :=
  match i with
  | .wrMode v => modeOf v
  | _ => none

theorem globalsAfter_special (i : Instr) (pm : Params) (g : Globals) :
    (globalsAfter i pm g).special = (modeAssigned i).getD g.special := by
  cases i
  case wrMode v =>
    cases h : modeOf v
    · simp only [globalsAfter, modeAssigned, h, Option.getD_none]
      split <;> rfl
    · simp [globalsAfter, modeAssigned, h]
  all_goals rfl

/-- Of the globals before a write, the mode bit decides nothing but the mode bit after it. -/
theorem globalsAfter_withMode (i : Instr) (pm : Params) (g : Globals) (b : Bool) :
    globalsAfter i pm { g with special := b } =
      { globalsAfter i pm g with special := (modeAssigned i).getD b } := by
  cases i
  case wrMode v =>
    cases h : modeOf v
    · simp only [globalsAfter, modeAssigned, h, Option.getD_none]
      split <;> rfl
    · simp [globalsAfter, modeAssigned, h, withTimerBits]
  all_goals rfl

/-- Where the target does not depend on the mode bit, a write under another mode does the same but for the mode bit. -/
theorem effectOf_withMode {i : Instr} (h2 : i.addr ≠ 0xA2) (h6 : i.addr ≠ 0xA6) (s : State) (b : Bool) :
    effectOf i (s.withMode b) = (effectOf i s).withMode ((modeAssigned i).getD b) := by
  have hchan : (effectOf i (s.withMode b)).channels = (effectOf i s).channels :=
    State.channels_ext fun c => by
      rw [chan_effectOf, chan_effectOf, target_mode_irrelevant h2 h6 _ _ s.globals.special]; rfl
  have hoper : (effectOf i (s.withMode b)).operators = (effectOf i s).operators :=
    State.operators_ext fun c o => by
      rw [oper_effectOf, oper_effectOf, reachesOperator_mode_irrelevant h2 h6 _ _ s.globals.special]; rfl
  have hglob : (effectOf i (s.withMode b)).globals = ((effectOf i s).withMode ((modeAssigned i).getD b)).globals := by
    simp only [State.withMode, State.updateGlobals_globals, effectOf_globals]
    exact globalsAfter_withMode i _ _ b
  have hdiag : (effectOf i (s.withMode b)).diag = (effectOf i s).diag := by
    rw [effectOf_diag, effectOf_diag]; rfl
  rw [effectOf_frame i (s.withMode b), hchan, hoper, hglob, hdiag, effectOf_frame i s]
  rfl

/-- Settles O50: by `effectOf_withMode`, and the mode bit after the write is the one it assigns or the one before. -/
theorem onlyOffsetTwoFrequencyWritesReadTheMode : Obligations.OnlyOffsetTwoFrequencyWritesReadTheMode := by
  intro w b s t t' h2 h6 ht ht'
  obtain ⟨-, rfl⟩ := exec_next_iff.mp ht
  obtain ⟨-, ht'⟩ := exec_next_iff.mp ht'
  rw [← Instr.addr_decode] at h2 h6
  obtain rfl := ht'.symm.trans
    (effectOf_withMode h2 h6 (s.storeRaw (decode w).port (decode w).addr (decode w).data) b)
  refine ⟨rfl, ?_⟩
  have hspecial := globalsAfter_special (decode w) s.params s.globals
  rw [effectOf_globals]
  cases hm : modeAssigned (decode w) with
  | none =>
    rw [hm] at hspecial
    exact .inr ⟨hspecial, rfl⟩
  | some m =>
    rw [hm] at hspecial
    exact .inl hspecial.symm

end Sys2Proof.Machine

/-! ## One write of the host, whole (R52, R53, R59) -/

namespace Sys2Proof.Machine

/-- R53: a pending write completes wherever the instance has not faulted; no address and no data byte is excepted. -/
theorem step_write_of_running {s : State} {w : Transaction} {rest : List HostOp} (hf : s.fault = none)
    (hp : s.pending = .write w :: rest) : step s = .next (afterWrite w s) := by
  have hf' : s.popped.fault = none := hf
  rw [step_of_pending hp, takeOp, exec_of_running hf', thenDetect, afterWrite]

/-- R52: of a whole write, detector included, the raw store alone reaches the raw maps. -/
theorem storesOnly_afterWrite (w : Transaction) (s : State) :
    StoresOnly (Transaction.port w) (Transaction.addr w) (Transaction.data w) s (afterWrite w s) := by
  intro q b
  rw [afterWrite, rawByte_detect, rawByte_effectOf, State.rawByte_storeRaw, State.rawByte_popped,
    Instr.port_decode, Instr.addr_decode, Instr.data_decode]

/-- Settles O40: the next state is `afterWrite`, which neither faults nor answers. -/
theorem everyWriteCompletesAndStoresItsByte : Obligations.EveryWriteCompletesAndStoresItsByte := by
  intro s w rest hf hp
  refine ⟨afterWrite w s, step_write_of_running hf hp, ?_, ?_, ?_, storesOnly_afterWrite w s⟩
  · simpa [afterWrite] using hf
  · simp [afterWrite, hp]
  · simp [afterWrite]

/-! ### A write taken twice

The raw store finds its byte already there. The effect finds the target it had the first time, since the one write that
can move the mode bit, a mode write, has a target that does not read it; and every setter assigns from the data byte. -/

/-- A store of a byte that is already there does nothing. -/
theorem storeRaw_effectOf_storeRaw (i : Instr) (s : State) (p : Port) (a : Addr) (v : Byte) :
    (effectOf i (s.storeRaw p a v)).storeRaw p a v = effectOf i (s.storeRaw p a v) := by
  have hraw : Memory.write (effectOf i (s.storeRaw p a v)).raw (rawKey p a) v = (effectOf i (s.storeRaw p a v)).raw := by
    rw [effectOf_raw, State.storeRaw_raw, Memory.write_write]
  rw [State.storeRaw, hraw]

theorem globalsAfter_idem (i : Instr) (pm : Params) (g : Globals) :
    globalsAfter i pm (globalsAfter i pm g) = globalsAfter i pm g := by
  cases i
  case wrMode v =>
    cases h : modeOf v
    · simp only [globalsAfter, h]
      split <;> rfl
    · simp only [globalsAfter, h, withTimerBits]
  all_goals rfl

/-- No write moves its own target: those that read the mode bit do not assign it. -/
theorem target_globalsAfter (i : Instr) (pm : Params) (g : Globals) :
    Instr.target i pm (globalsAfter i pm g).special = Instr.target i pm g.special := by
  cases i <;> rfl

theorem reachesOperator_globalsAfter (i : Instr) (pm : Params) (g : Globals) (c : ChanIx) (o : OpIx) :
    reachesOperator i pm (globalsAfter i pm g).special c o = reachesOperator i pm g.special c o := by
  cases i <;> rfl

theorem chan_effectOf_effectOf (i : Instr) (s : State) (c : ChanIx) :
    (effectOf i (effectOf i s)).chan c = (effectOf i s).chan c := by
  rw [chan_effectOf, effectOf_params, effectOf_globals, target_globalsAfter, chan_effectOf]
  split
  · exact chanSetter_idem i _
  · rfl

theorem oper_effectOf_effectOf (i : Instr) (s : State) (c : ChanIx) (o : OpIx) :
    (effectOf i (effectOf i s)).oper c o = (effectOf i s).oper c o := by
  rw [oper_effectOf, effectOf_params, effectOf_globals, reachesOperator_globalsAfter, oper_effectOf]
  split
  · exact operSetter_idem i o _
  · rfl

/-- R59: an effect taken a second time emits its events again and does nothing else. -/
theorem effectOf_effectOf (i : Instr) (s : State) :
    effectOf i (effectOf i s) = { effectOf i s with diag := (effectOf i s).diag ++ eventsOf i } := by
  have hglob : (effectOf i (effectOf i s)).globals = (effectOf i s).globals := by
    rw [effectOf_globals, effectOf_params, effectOf_globals, globalsAfter_idem]
  have hchan : (effectOf i (effectOf i s)).channels = (effectOf i s).channels :=
    State.channels_ext (chan_effectOf_effectOf i s)
  have hoper : (effectOf i (effectOf i s)).operators = (effectOf i s).operators :=
    State.operators_ext (oper_effectOf_effectOf i s)
  rw [effectOf_frame i (effectOf i s), hglob, hchan, hoper, effectOf_diag i (effectOf i s)]

/-- Settles O48: the second store finds its byte in place, and `effectOf_effectOf` says the rest. -/
theorem writesAreIdempotent : Obligations.WritesAreIdempotent := by
  intro i s t u ht hu
  obtain ⟨-, rfl⟩ := exec_next_iff.mp ht
  obtain ⟨-, rfl⟩ := exec_next_iff.mp hu
  rw [storeRaw_effectOf_storeRaw, effectOf_effectOf]
  exact ⟨rfl, eventsOf i, effectOf_diag i _, rfl⟩

/-! ## The raw read (R58) -/

/-- Settles O45: the read is taken from the state without it, and the state's own raw byte is the answer. -/
theorem rawReadReturnsTheByte : Obligations.RawReadReturnsTheByte := by
  intro s p a rest hf hp
  have hf' : s.popped.fault = none := hf
  have hpopped : s.popped = { s with pending := rest } := by rw [State.popped, hp, List.tail_cons]
  rw [step_of_pending hp, takeOp, readRaw, whenRunning_of_running hf', hpopped]
  rfl

end Sys2Proof.Machine

/-! ## The list of unrecognised selectors (R86)

The instruction of a selector is well-formed, so the decoder answers UNRECOGNISED at listed selectors only. -/

namespace Sys2Proof

theorem groupOf_eq (a : Addr) : groupOf a = a.toNat / 16 := by
  have ha := a.isLt
  simp only [groupOf, BitVec.extractLsb'_toNat, Nat.shiftRight_eq_div_pow]
  omega

theorem toNat_offset (a : Addr) : (a.extractLsb' 0 2).toNat = a.toNat % 4 := by
  rw [BitVec.extractLsb'_toNat, Nat.shiftRight_eq_div_pow, Nat.pow_zero, Nat.div_one]

theorem offsetOf_eq_some_iff {a : Addr} {co : Offset} :
    offsetOf a = some co ↔ (a.extractLsb' 0 2).toNat = co.val := by
  refine ⟨val_of_offsetOf, fun h => ?_⟩
  have hlt : (a.extractLsb' 0 2).toNat < 3 := h ▸ co.isLt
  simp only [offsetOf, dif_pos hlt, Option.some.injEq]
  exact Fin.ext h

/-- R71: the offset that names no channel is 3. -/
theorem offsetOf_eq_none_iff {a : Addr} : offsetOf a = none ↔ a.toNat % 4 = 3 := by
  simp only [offsetOf, dite_eq_right_iff, reduceCtorEq, imp_false, toNat_offset]
  omega

/-- R86's list, port by port, in addresses as numbers. -/
theorem unrecognisedSelector_iff {p : Port} {a : Addr} :
    unrecognisedSelector p a = true ↔
      (p.val = 0 ∧ (a.toNat ≤ 0x21 ∨ a.toNat = 0x23 ∨ a.toNat = 0x24 ∨ a.toNat = 0x25 ∨ a.toNat = 0x29 ∨
        (0x2C ≤ a.toNat ∧ a.toNat ≤ 0x2F))) ∨
      (p.val = 1 ∧ a.toNat ≤ 0x2F) ∨
      (0x30 ≤ a.toNat ∧ a.toNat ≤ 0x8F ∧ a.toNat % 4 = 3) ∨ a.toNat = 0x9F ∨
      a.toNat = 0xA3 ∨ a.toNat = 0xA7 ∨ a.toNat = 0xAB ∨ a.toNat = 0xAF ∨ a.toNat = 0xB3 ∨ 0xB7 ≤ a.toNat := by
  match p with
  | 0 => simp [unrecognisedSelector, unrecognisedOnPort0, unrecognisedOnBoth, or_assoc, and_assoc]
  | 1 => simp [unrecognisedSelector, unrecognisedOnPort1, unrecognisedOnBoth, or_assoc, and_assoc]

theorem wellFormed_decodeGlobal {p : Port} {a : Addr} (v : Byte) (hg : groupOf a = 2) :
    (decodeGlobal p a v).wellFormed = true := by
  rw [groupOf_eq] at hg
  simp only [decodeGlobal]
  split
  case isTrue hp =>
    subst hp
    split
    case h_7 =>
      simp only [imp_false] at *
      exact unrecognisedSelector_iff.mpr (by omega)
    all_goals rfl
  case isFalse hp =>
    rw [← Fin.val_eq_zero_iff] at hp
    exact unrecognisedSelector_iff.mpr (by omega)

theorem wellFormed_decodeOperatorGroup {cls : Port → Slot → Offset → Byte → Instr} {p : Port} {a : Addr} {v : Byte}
    (h3 : 3 ≤ groupOf a) (h8 : groupOf a ≤ 8) (hcls : ∀ slot co, (cls p slot co v).wellFormed = true) :
    (decodeOperatorGroup cls p a v).wellFormed = true := by
  rw [groupOf_eq] at h3 h8
  simp only [decodeOperatorGroup]
  split
  case h_1 => exact hcls _ _
  case h_2 hn =>
    rw [offsetOf_eq_none_iff] at hn
    exact unrecognisedSelector_iff.mpr (by omega)

theorem toNat_undocLow {a : Addr} (hg : groupOf a = 9) : (a.extractLsb' 0 4).toNat = a.toNat - 0x90 := by
  rw [groupOf_eq] at hg
  rw [BitVec.extractLsb'_toNat, Nat.shiftRight_eq_div_pow]
  omega

theorem wellFormed_decodeUndocumented {p : Port} {a : Addr} (v : Byte) (hg : groupOf a = 9) :
    (decodeUndocumented p a v).wellFormed = true := by
  simp only [decodeUndocumented]
  split
  case isTrue => rfl
  case isFalse hlow =>
    rw [toNat_undocLow hg] at hlow
    rw [groupOf_eq] at hg
    exact unrecognisedSelector_iff.mpr (by omega)

theorem toNat_slot (a : Addr) : (slotOf a).val = a.toNat / 4 % 4 := by
  show (a.extractLsb' 2 2).toNat = _
  rw [BitVec.extractLsb'_toNat, Nat.shiftRight_eq_div_pow]

theorem wellFormed_decodeFrequency {p : Port} {a : Addr} (v : Byte) (hg : groupOf a = 10) :
    (decodeFrequency p a v).wellFormed = true := by
  rw [groupOf_eq] at hg
  simp only [decodeFrequency]
  split
  case h_1 => split <;> rfl
  case h_2 hn =>
    rw [offsetOf_eq_none_iff] at hn
    exact unrecognisedSelector_iff.mpr (by omega)

theorem wellFormed_decodeVoice {p : Port} {a : Addr} (v : Byte) (hg : groupOf a = 11) :
    (decodeVoice p a v).wellFormed = true := by
  have hslot := toNat_slot a
  rw [groupOf_eq] at hg
  simp only [decodeVoice]
  split
  case h_1 =>
    split
    case h_1 | h_2 => rfl
    case h_3 hs | h_4 hs =>
      rw [hs] at hslot
      exact unrecognisedSelector_iff.mpr (by omega)
  case h_2 hn =>
    rw [offsetOf_eq_none_iff] at hn
    exact unrecognisedSelector_iff.mpr (by omega)

/-- R84: every selector's instruction is well-formed: an UNRECOGNISED one names a selector of R86's list. -/
theorem wellFormed_decodeSelector (p : Port) (a : Addr) (v : Byte) : (decodeSelector p a v).wellFormed = true := by
  simp only [decodeSelector]
  split
  case h_1 hg => exact wellFormed_decodeGlobal v hg
  case h_2 hg | h_3 hg | h_4 hg | h_5 hg | h_6 hg | h_7 hg =>
    exact wellFormed_decodeOperatorGroup (by omega) (by omega) fun _ _ => rfl
  case h_8 hg => exact wellFormed_decodeUndocumented v hg
  case h_9 hg => exact wellFormed_decodeFrequency v hg
  case h_10 hg => exact wellFormed_decodeVoice v hg
  case h_11 =>
    have hg := groupOf_eq a
    have ha := a.isLt
    simp only [imp_false] at *
    exact unrecognisedSelector_iff.mpr (by omega)

@[simp] theorem wellFormed_decode (t : Transaction) : (decode t).wellFormed = true := wellFormed_decodeSelector _ _ _

/-! ## The decoder follows the opcode table (R84) -/

/-- The table gives the selector of a well-formed instruction to the instruction's row: all constructors together. -/
theorem tableMnemonic_selector (i : Instr) (h : i.wellFormed = true) :
    tableMnemonic (Laws.SelectorRow.selector i) = i.mnemonic := by
  revert h
  cases i with
  | wrLfo v => exact Laws.SelectorRow.wrLfo v
  | wrTimerB v => exact Laws.SelectorRow.wrTimerB v
  | wrMode v => exact Laws.SelectorRow.wrMode v
  | wrKey v => exact Laws.SelectorRow.wrKey v
  | wrDacData v => exact Laws.SelectorRow.wrDacData v
  | wrDacEn v => exact Laws.SelectorRow.wrDacEn v
  | wrDtMul p slot co v => exact Laws.SelectorRow.wrDtMul p slot co v
  | wrTl p slot co v => exact Laws.SelectorRow.wrTl p slot co v
  | wrKsAr p slot co v => exact Laws.SelectorRow.wrKsAr p slot co v
  | wrAmD1r p slot co v => exact Laws.SelectorRow.wrAmD1r p slot co v
  | wrD2r p slot co v => exact Laws.SelectorRow.wrD2r p slot co v
  | wrD1lRr p slot co v => exact Laws.SelectorRow.wrD1lRr p slot co v
  | wrUndoc9x p low v => exact Laws.SelectorRow.wrUndoc9x p low v
  | wrFnumLo p co v => exact Laws.SelectorRow.wrFnumLo p co v
  | wrFnumHi p co v => exact Laws.SelectorRow.wrFnumHi p co v
  | wrOpFnumLo p co v => exact Laws.SelectorRow.wrOpFnumLo p co v
  | wrOpFnumHi p co v => exact Laws.SelectorRow.wrOpFnumHi p co v
  | wrFbAlg p co v => exact Laws.SelectorRow.wrFbAlg p co v
  | wrLrAmsFms p co v => exact Laws.SelectorRow.wrLrAmsFms p co v
  | unrecognised p a v => exact Laws.SelectorRow.unrecognised p a v

theorem selector_pack (p : Port) (a : Addr) (v : Byte) :
    Transaction.selector (Transaction.pack p a v) = BitVec.ofNat 9 (256 * p.val + a.toNat) := by
  have hv := v.isLt
  apply BitVec.eq_of_toNat_eq
  simp only [Transaction.selector, BitVec.extractLsb'_toNat, Transaction.toNat_pack, Nat.shiftRight_eq_div_pow,
    BitVec.toNat_ofNat]
  omega

/-- R70: the selector of a transaction is that of the instruction it stands for. -/
theorem selector_decode (t : Transaction) : Laws.SelectorRow.selector (decode t) = Transaction.selector t := by
  rw [← Transaction.pack_fields t, selector_pack, Laws.SelectorRow.selector, Transaction.pack_fields,
    Instr.port_decode, Instr.addr_decode]

/-- R84: the decoder gives a transaction the class that the table gives its selector. -/
theorem mnemonic_decode (t : Transaction) : (decode t).mnemonic = tableMnemonic (Transaction.selector t) := by
  rw [← selector_decode, tableMnemonic_selector _ (wellFormed_decode t)]

/-- Two rows differ at a selector bit that both of them fix, so that no selector meets both. -/
theorem opcodeRows_patterns_disjoint :
    opcodeRows.Pairwise fun r r' => r.pattern &&& r'.mask ≠ r'.pattern &&& r.mask := by decide

theorem Row.and_mask_of_hits {r : Row} {sel : Selector} (h : r.hits sel = true) : sel &&& r.mask = r.pattern := by
  simp only [hits, Bool.and_eq_true, beq_iff_eq] at h
  exact h.1

theorem Row.not_hits_of_disjoint {r r' : Row} {sel : Selector}
    (hne : r.pattern &&& r'.mask ≠ r'.pattern &&& r.mask) (h : r.hits sel = true) (h' : r'.hits sel = true) : False := by
  apply hne
  rw [← and_mask_of_hits h, ← and_mask_of_hits h', BitVec.and_assoc, BitVec.and_assoc, BitVec.and_comm r.mask]

/-- R84: at most one row names a selector. -/
theorem length_rows_hit_le_one (sel : Selector) : (opcodeRows.filter (·.hits sel)).length ≤ 1 := by
  have hpw := opcodeRows_patterns_disjoint.filter (p := (·.hits sel))
  match hrows : opcodeRows.filter (·.hits sel) with
  | [] | [_] => simp [hrows]
  | r :: r' :: rest =>
    have hr : r ∈ opcodeRows.filter (·.hits sel) := by simp [hrows]
    have hr' : r' ∈ opcodeRows.filter (·.hits sel) := by simp [hrows]
    rw [hrows] at hpw
    exact (Row.not_hits_of_disjoint (List.rel_of_pairwise_cons hpw (by simp))
      (List.mem_filter.mp hr).2 (List.mem_filter.mp hr').2).elim

/-- R84: a row that names a selector is the one the table's search finds. -/
theorem tableMnemonic_of_hits {r : Row} {sel : Selector} (hr : r ∈ opcodeRows) (h : r.hits sel = true) :
    tableMnemonic sel = r.mnemonic := by
  have hmem : r ∈ opcodeRows.filter (·.hits sel) := List.mem_filter.mpr ⟨hr, h⟩
  have hone : opcodeRows.filter (·.hits sel) = [r] := by
    have hlength := Nat.le_antisymm (length_rows_hit_le_one sel) (List.length_pos_of_mem hmem)
    obtain ⟨r', hr'⟩ := List.length_eq_one_iff.mp hlength
    rw [hr'] at hmem ⊢
    rw [List.mem_singleton.mp hmem]
  rw [tableMnemonic, ← List.head?_filter, hone, List.head?_cons]

theorem tableMnemonic_of_no_hit {sel : Selector} (h : ∀ r ∈ opcodeRows, r.hits sel = false) :
    tableMnemonic sel = "UNRECOGNISED" := by
  have hnone : opcodeRows.find? (·.hits sel) = none := List.find?_eq_none.mpr fun r hr => by simp [h r hr]
  rw [tableMnemonic, hnone]

/-- Settles O12: `mnemonic_decode` takes the decoder to the table, whose rows are pairwise disjoint. -/
theorem decodeFollowsTheOpcodeTable : Obligations.DecodeFollowsTheOpcodeTable := by
  refine ⟨length_rows_hit_le_one, fun t => ⟨fun r hr h => ?_, fun h => ?_⟩⟩
  · rw [mnemonic_decode, tableMnemonic_of_hits hr h]
  · rw [mnemonic_decode, tableMnemonic_of_no_hit h]

/-! ## Decoding an unrecognised selector (R86) -/

theorem eq_unrecognised_of_mnemonic {i : Instr} (h : i.mnemonic = "UNRECOGNISED") :
    i = .unrecognised i.port i.addr i.data := by
  cases i
  case unrecognised p a v => rfl
  all_goals exact absurd h (by simp [Instr.mnemonic])

/-- A transaction is UNRECOGNISED exactly where its selector is in R86's list: there no row of the table names it. -/
theorem decodeSelector_eq_unrecognised_iff {p : Port} {a : Addr} {v : Byte} :
    decodeSelector p a v = .unrecognised p a v ↔ unrecognisedSelector p a = true := by
  constructor
  · intro h
    have hwf := wellFormed_decodeSelector p a v
    rwa [h] at hwf
  · intro h
    have hmn : (decode (Transaction.pack p a v)).mnemonic = "UNRECOGNISED" := by
      rw [mnemonic_decode, selector_pack]
      exact tableMnemonic_selector (.unrecognised p a v) h
    have := eq_unrecognised_of_mnemonic hmn
    rwa [Instr.port_decode, Instr.addr_decode, Instr.data_decode, Transaction.port_pack, Transaction.addr_pack,
      Transaction.data_pack, decode_pack] at this

end Sys2Proof

/-! ## Decoding by address: the instruction a selector's fields stand for -/

namespace Sys2Proof

/-- A well-formed instruction is what the decoder reads at its own port and address. -/
theorem decodeSelector_fields {i : Instr} (h : i.wellFormed = true) : decodeSelector i.port i.addr i.data = i := by
  cases i
  case wrLfo | wrTimerB | wrMode | wrKey | wrDacData | wrDacEn =>
    simp [Instr.port, Instr.addr, Instr.data, decodeSelector, groupOf, decodeGlobal]
  case wrDtMul | wrTl | wrKsAr | wrAmD1r | wrD2r | wrD1lRr =>
    simp [Instr.port, Instr.addr, Instr.data, decodeSelector, decodeOperatorGroup]
  case wrUndoc9x p low v =>
    have ha : (BitVec.ofNat 8 (0x90 + low.val)).toNat = 0x90 + low.val := by
      rw [BitVec.toNat_ofNat]
      omega
    have hg : groupOf (BitVec.ofNat 8 (0x90 + low.val)) = 9 := by rw [groupOf_eq, ha]; omega
    simp [Instr.port, Instr.addr, Instr.data, decodeSelector, hg, decodeUndocumented, toNat_undocLow hg, ha]
  case wrFnumLo | wrFnumHi | wrOpFnumLo | wrOpFnumHi =>
    simp [Instr.port, Instr.addr, Instr.data, decodeSelector, decodeFrequency]
  case wrFbAlg | wrLrAmsFms => simp [Instr.port, Instr.addr, Instr.data, decodeSelector, decodeVoice]
  case unrecognised p a v => exact decodeSelector_eq_unrecognised_iff.mpr h

/-- A transaction that a well-formed instruction encodes to stands for that instruction. -/
theorem decode_of_encode {i : Instr} {t : Transaction} (h : i.wellFormed = true) (ht : encode i = t) : decode t = i := by
  rw [← ht, encode, decode_pack, decodeSelector_fields h]

theorem decode_pack_unrecognised {p : Port} {a : Addr} {v : Byte} (h : unrecognisedSelector p a = true) :
    decode (Transaction.pack p a v) = .unrecognised p a v :=
  decode_of_encode h rfl

end Sys2Proof

namespace Sys2Proof.Machine

/-! ## What the decoded addresses reach (R77 to R82) -/

/-- R77: no global write names a channel or an operator. -/
theorem target_decodeGlobal (p : Port) (a : Addr) (v : Byte) (pm : Params) (special : Bool) :
    Instr.target (decodeGlobal p a v) pm special = .other := by
  simp only [decodeGlobal]
  split
  · split <;> rfl
  · rfl

/-- R78: an address of groups 0x3 to 0x8 reaches the operator of its slot, in the channel of its offset. -/
theorem target_decodeSelector_operatorGroup {p : Port} {a : Addr} {co : Offset} (ho : offsetOf a = some co)
    (h3 : 3 ≤ groupOf a) (h8 : groupOf a ≤ 8) (v : Byte) (pm : Params) (special : Bool) :
    Instr.target (decodeSelector p a v) pm special = .operator (channelAt p co) (pm.operatorOfSlot (slotOf a)) := by
  simp only [decodeSelector]
  split
  case h_2 | h_3 | h_4 | h_5 | h_6 | h_7 => simp only [decodeOperatorGroup, ho]; rfl
  case h_11 => simp only [imp_false] at *; omega
  all_goals omega

/-- Settles O6: each global class by its encoding, port 1 by R86's list, the targets by `target_decodeGlobal`. -/
theorem globalAddressesDecode : Obligations.GlobalAddressesDecode := by
  refine ⟨fun v => ?_, fun a v _ hle => ?_, fun p a v pm special hge hle => ?_⟩
  · exact ⟨decode_of_encode rfl rfl, decode_of_encode rfl rfl, decode_of_encode rfl rfl,
      decode_of_encode rfl rfl, decode_of_encode rfl rfl, decode_of_encode rfl rfl⟩
  · exact decode_pack_unrecognised (unrecognisedSelector_iff.mpr (.inr (.inl ⟨rfl, hle⟩)))
  · have hg : groupOf a = 2 := by rw [groupOf_eq]; bv_omega
    rw [decode_pack, decodeSelector, hg]
    exact target_decodeGlobal p a v pm special

/-- Settles O7: an address with a channel offset is its three fields, so it is the one its class encodes to. -/
theorem operatorGroupsDecode : Obligations.OperatorGroupsDecode := by
  intro p a v
  refine ⟨fun co hco => ?_, fun h3 hge hle => decode_pack_unrecognised (unrecognisedSelector_iff.mpr ?_)⟩
  · have ho : offsetOf a = some co := offsetOf_eq_some_iff.mpr hco
    have haddr : ∀ grp : Fin 16, a.extractLsb' 4 4 = BitVec.ofFin grp → regAddr grp (slotOf a) co = a :=
      fun grp hg => regAddr_of_fields (congrArg BitVec.toNat hg) ho
    refine ⟨fun hg => ?_, fun hg => ?_, fun hg => ?_, fun hg => ?_, fun hg => ?_, fun hg => ?_,
      fun hge hle pm special => ⟨channelAt p co, rfl, ?_⟩⟩
    case refine_7 =>
      rw [decode_pack]
      exact target_decodeSelector_operatorGroup ho hge hle v pm special
    all_goals exact decode_of_encode rfl (congrArg (Transaction.pack p · v) (haddr _ hg))
  · have hoff := toNat_offset a
    have hg := groupOf_eq a
    have h3 : (a.extractLsb' 0 2).toNat = 3 := congrArg BitVec.toNat h3
    have hge : 3 ≤ groupOf a := hge
    have hle : groupOf a ≤ 8 := hle
    omega

/-- Settles O8: an address of the group is the one that its low nibble encodes to. -/
theorem undocumentedGroupDecodes : Obligations.UndocumentedGroupDecodes := by
  refine fun p v => ⟨fun a hge hle => ?_, decode_pack_unrecognised (unrecognisedSelector_iff.mpr ?_)⟩
  · have hge : 0x90 ≤ a.toNat := hge
    have hle : a.toNat ≤ 0x9E := hle
    refine ⟨⟨a.toNat - 0x90, by omega⟩, rfl, decode_of_encode rfl ?_, fun _ _ => rfl⟩
    have haddr : BitVec.ofNat 8 (0x90 + (a.toNat - 0x90)) = a := by
      rw [Nat.add_sub_cancel' hge, BitVec.ofNat_toNat, BitVec.setWidth_eq]
    exact congrArg (Transaction.pack p · v) haddr
  · simp

/-- Settles O9: both classes by their encodings, and their target is `freqTarget` as it stands. -/
theorem channelFrequenciesDecode : Obligations.ChannelFrequenciesDecode := by
  refine fun p v => ⟨fun co pm special => ⟨specialChannel p, channelAt p co, rfl, rfl,
    decode_of_encode rfl rfl, decode_of_encode rfl rfl, rfl, rfl⟩, ?_, ?_⟩
  all_goals exact decode_pack_unrecognised (unrecognisedSelector_iff.mpr (by simp))

/-- Settles O10: both classes by their encodings; the mode is no part of their target. -/
theorem operatorFrequenciesDecode : Obligations.OperatorFrequenciesDecode := by
  refine fun p v => ⟨fun co pm special => ⟨specialChannel p, rfl,
    decode_of_encode rfl rfl, decode_of_encode rfl rfl, rfl, rfl⟩, ?_, ?_, by decide⟩
  all_goals exact decode_pack_unrecognised (unrecognisedSelector_iff.mpr (by simp))

/-- Settles O11: both classes by their encodings, the rest of the group by R86's list. -/
theorem algorithmAndStereoDecode : Obligations.AlgorithmAndStereoDecode := by
  refine fun p v => ⟨fun co pm special => ⟨channelAt p co, rfl,
    decode_of_encode rfl rfl, decode_of_encode rfl rfl, rfl, rfl⟩, fun a ha => ?_⟩
  refine decode_pack_unrecognised (unrecognisedSelector_iff.mpr ?_)
  obtain rfl | ha := ha
  · simp
  · have ha : 0xB7 ≤ a.toNat := ha
    omega

/-! ## A write to an unrecognised selector (R86) -/

/-- A write's raw store reaches one byte, its own (R52). -/
theorem storesOnly_effectOf (i : Instr) (s : State) :
    StoresOnly i.port i.addr i.data s (effectOf i (s.storeRaw i.port i.addr i.data)) := by
  intro q b
  rw [rawByte_effectOf, State.rawByte_storeRaw]

/-- Settles O38: `decodeSelector_eq_unrecognised_iff` on R86's list; the effect is the raw store and one event. -/
theorem unrecognisedWriteIsLoggedOnly : Obligations.UnrecognisedWriteIsLoggedOnly := by
  refine ⟨fun p a v => ?_, fun p a v s hf => ?_⟩
  · rw [decode_pack, decodeSelector_eq_unrecognised_iff, unrecognisedSelector_iff]
    have hport : p = 1 ↔ p.val = 1 := Fin.ext_iff
    simp [hport, ← BitVec.toNat_inj, BitVec.le_def]
  · refine ⟨_, exec_of_running hf _, rfl, storesOnly_effectOf (.unrecognised p a v) s, ?_⟩
    simp [KeepsAllBut, effectOf, unrecognisedEffect, Instr.port]

/-! ## The transport (R88 to R90) -/

theorem deliver_endTag (rest : List Byte) : deliver (0x66 :: rest) = .ok [] := by
  match rest with
  | [] | [_] | _ :: _ :: _ => rfl

theorem portOfTag_tagOfPort (p : Port) : portOfTag (tagOfPort p) = some p := by revert p; decide

theorem tagOfPort_ne_endTag (p : Port) : tagOfPort p ≠ 0x66 := by revert p; decide

/-- R88: a register-write command, and the stream after it. -/
theorem deliver_command (p : Port) (a v : Byte) (rest : List Byte) :
    deliver (tagOfPort p :: a :: v :: rest) = (deliver rest).map (writeOp p a v :: ·) := by
  rw [deliver, if_neg (tagOfPort_ne_endTag p), portOfTag_tagOfPort]

theorem decodeBytes_command (p : Port) (a v : Byte) (rest : List Byte) :
    decodeBytes (tagOfPort p :: a :: v :: rest) = .ok (decode (Transaction.pack p a v), rest) := by
  rw [decodeBytes, if_neg (tagOfPort_ne_endTag p), portOfTag_tagOfPort, decode_pack]

/-- R90: the commands of a list of writes deliver them in their order, before what the stream after them delivers. -/
theorem deliver_commands_append (ws : List (Port × Addr × Byte)) (rest : List Byte) :
    deliver (ws.flatMap (fun w => [tagOfPort w.1, w.2.1, w.2.2]) ++ rest) =
      (deliver rest).map (ws.map (fun w => writeOp w.1 w.2.1 w.2.2) ++ ·) := by
  induction ws with
  | nil => cases h : deliver rest <;> simp [h, Except.map]
  | cons w ws ih =>
    simp only [List.flatMap_cons, List.cons_append, List.nil_append, deliver_command, ih]
    cases deliver rest <;> rfl

/-- Settles O17: `deliver_commands_append`, with the end byte after the commands and with nothing after them. -/
theorem transportDeliversRegisterWrites : Obligations.TransportDeliversRegisterWrites := by
  refine ⟨fun a v rest => ⟨decodeBytes_command 0 a v rest, decodeBytes_command 1 a v rest, rfl⟩, fun ws rest => ⟨?_, ?_⟩⟩
  · refine (deliver_commands_append ws (0x66 :: rest)).trans ?_
    rw [deliver_endTag, Except.map, List.append_nil]
    rfl
  · have h := deliver_commands_append ws []
    rw [List.append_nil] at h
    refine h.trans ?_
    rw [deliver, Except.map, List.append_nil]
    rfl

/-! ## The pseudo-instructions (R91, R92) -/

/-- R91: where `OP_ADDR_MAP` is a bijection, every operator has its slot. -/
theorem slotOfOperator_eq_some {pm : Params} (hwf : pm.WellFormed) (o : OpIx) :
    ∃ k, slotOfOperator pm o = some k ∧ pm.operatorOfSlot k = o := by
  obtain ⟨hinj, -, -⟩ := hwf
  obtain ⟨k, hk⟩ := (Finite.injective_iff_surjective.mp fun k l => hinj k l) o
  have hmem : ∀ l : Slot, l ∈ ([0, 1, 2, 3] : List Slot) := by decide
  have hsome : (slotOfOperator pm o).isSome = true := by
    rw [slotOfOperator, List.find?_isSome]
    exact ⟨k, hmem k, by simpa using hk⟩
  obtain ⟨k', hk'⟩ := Option.isSome_iff_exists.mp hsome
  exact ⟨k', hk', by simpa using List.find?_some hk'⟩

/-- R91: the address of OPREG is the group's address of the slot and the offset. -/
theorem opRegAddr_eq_regAddr (grp : BitVec 4) (k : Slot) (co : Offset) :
    (grp.zeroExtend 8 <<< 4) + (BitVec.ofNat 8 k.val <<< 2) + BitVec.ofNat 8 co.val = regAddr grp.toFin k co := by
  apply BitVec.eq_of_toNat_eq
  have hgrp := grp.isLt
  simp only [BitVec.toNat_add, BitVec.toNat_shiftLeft, BitVec.truncate_eq_setWidth, BitVec.toNat_setWidth,
    Nat.shiftLeft_eq, BitVec.toNat_ofNat, regAddr, BitVec.val_toFin]
  omega

theorem opRegOp_eq {pm : Params} {o : OpIx} {k : Slot} (hk : slotOfOperator pm o = some k) (grp : BitVec 4)
    (c : ChanIx) (v : Byte) :
    opRegOp pm grp c o v = some (writeOp (portOfChannel c) (regAddr grp.toFin k (offsetOfChannel c)) v) := by
  rw [opRegOp, hk, Option.map_some, opRegAddr_eq_regAddr]

/-- R91: the port and the offset of a channel name that channel again (R72). -/
theorem channelAt_portOfChannel (c : ChanIx) : channelAt (portOfChannel c) (offsetOfChannel c) = c :=
  Fin.ext (Nat.div_add_mod c.val 3)

/-- R91, R92: KEY writes 0x28 with the mask and the code of its channel. -/
theorem keyOp_reaches (c : ChanIx) (m : BitVec 4) : ∃ v : Byte, keyOp c m = .write (Transaction.pack 0 0x28 v) ∧
    keyChannel v = some c ∧ v.extractLsb' 4 4 = m ∧ v.getLsbD 3 = false ∧ v.extractLsb' 0 3 = chcode c := by
  refine ⟨_, rfl, ?_⟩
  revert c m
  decide

/-- R91: VOICE writes the algorithm register of its channel with the feedback and the algorithm. -/
theorem voiceOp_reaches (c : ChanIx) (alg fb : BitVec 3) : ∃ v : Byte,
    voiceOp c alg fb =
      .write (Transaction.pack (portOfChannel c) (BitVec.ofNat 8 (0xB0 + (offsetOfChannel c).val)) v) ∧
    v.extractLsb' 6 2 = 0 ∧ v.extractLsb' 3 3 = fb ∧ v.extractLsb' 0 3 = alg := by
  refine ⟨_, by rw [voiceOp, writeOp, BitVec.ofNat_add]; rfl, ?_⟩
  revert alg fb
  decide

/-- R91: OPREG reaches its operator in its channel through the group's address, in either mode. -/
theorem opRegOp_reaches {pm : Params} (hwf : pm.WellFormed) {grp : BitVec 4} (h3 : 0x3 ≤ grp) (h8 : grp ≤ 0x8)
    (c : ChanIx) (o : OpIx) (v : Byte) :
    ∃ t : Transaction, opRegOp pm grp c o v = some (.write t) ∧ Transaction.data t = v ∧
      (Transaction.addr t).extractLsb' 4 4 = grp ∧
      ∀ special : Bool, Instr.target (decode t) pm special = .operator c o := by
  obtain ⟨k, hk, rfl⟩ := slotOfOperator_eq_some hwf o
  have hgrp : groupOf (regAddr grp.toFin k (offsetOfChannel c)) = grp.toNat := groupOf_regAddr ..
  refine ⟨_, opRegOp_eq hk grp c v, Transaction.data_pack .., ?_, fun special => ?_⟩
  · rw [Transaction.addr_pack]
    exact BitVec.eq_of_toNat_eq hgrp
  · rw [decode_pack, target_decodeSelector_operatorGroup (offsetOf_regAddr ..) (hgrp ▸ h3) (hgrp ▸ h8), slotOf_regAddr,
      channelAt_portOfChannel]

/-- R91, R104: SPECIAL assigns the mode bit and clears the six timer bits, as the mode byte 0x40 or 0x00 does. -/
theorem globalsAfter_special_byte (on : Bool) (pm : Params) (g : Globals) :
    globalsAfter (.wrMode (if on then 0x40 else 0x00)) pm g = { g with
      special := on, resetB := false, resetA := false, enableB := false, enableA := false
      loadB := false, loadA := false } := by
  cases on <;> rfl

/-- Settles O18: one lemma for each pseudo-instruction. -/
theorem pseudoInstructionsReachWhatTheyName : Obligations.PseudoInstructionsReachWhatTheyName := by
  refine ⟨by decide, keyOp_reaches, fun c alg fb => ?_, fun pm grp c o v hwf h3 h8 => opRegOp_reaches hwf h3 h8 c o v,
    fun on s hf => ⟨rfl, _, exec_of_running hf _, ?_⟩⟩
  · obtain ⟨v, hop, hv⟩ := voiceOp_reaches c alg fb
    exact ⟨_, _, v, hop, (congrArg Fin.val (channelAt_portOfChannel c)).symm, hv⟩
  · have hdecode : ∀ v, decode (Transaction.pack 0 0x27 v) = .wrMode v := fun v => decode_of_encode rfl rfl
    rw [effectOf_globals, hdecode]
    exact globalsAfter_special_byte on _ _

end Sys2Proof.Machine

/-! ## The counts of recognised selectors (R85) -/

namespace Sys2Proof

/-- The classes of the global addresses (R77). -/
def globalClasses : List String := ["WR_LFO", "WR_TIMER_B", "WR_MODE", "WR_KEY", "WR_DAC_DATA", "WR_DAC_EN"]

/-- The classes of the operator groups (R78). -/
def operatorClasses : List String := ["WR_DT_MUL", "WR_TL", "WR_KS_AR", "WR_AM_D1R", "WR_D2R", "WR_D1L_RR"]

/-- The classes of the frequency sub-blocks (R80, R81). -/
def frequencyClasses : List String := ["WR_FNUM_LO", "WR_FNUM_HI", "WR_OPFNUM_LO", "WR_OPFNUM_HI"]

/-- The classes of the algorithm and stereo sub-blocks (R82). -/
def voiceClasses : List String := ["WR_FB_ALG", "WR_LR_AMS_FMS"]

theorem mnemonics_of_rows : opcodeRows.map (·.mnemonic) =
    globalClasses ++ (operatorClasses ++ (["WR_UNDOC_9X"] ++ (frequencyClasses ++ voiceClasses))) := rfl

/-- Two lists without a common member pick members apart. -/
theorem length_filter_contains_append {α β : Type} [BEq β] (f : α → β) {xs ys : List β}
    (h : ∀ m, xs.contains m = true → ys.contains m = false) (as : List α) :
    (as.filter fun a => (xs ++ ys).contains (f a)).length =
      (as.filter fun a => xs.contains (f a)).length + (as.filter fun a => ys.contains (f a)).length := by
  induction as with
  | nil => rfl
  | cons a as ih =>
    simp only [List.filter_cons, List.contains_append] at ih ⊢
    cases hx : xs.contains (f a)
    · cases hy : ys.contains (f a) <;> simp [ih, Nat.add_assoc]
    · simp [h _ hx, ih, Nat.succ_add]

/-- The addresses of two lists without a common class are counted apart. -/
theorem countDecoded_append (p : Port) {xs ys : List String} (h : ∀ m ∈ xs, m ∉ ys) :
    countDecoded p (xs ++ ys) = countDecoded p xs + countDecoded p ys :=
  length_filter_contains_append _ (by simpa using h) _

theorem mnemonic_mem_classes (i : Instr) : i.mnemonic ∈ "UNRECOGNISED" :: opcodeRows.map (·.mnemonic) := by
  cases i <;> simp [Instr.mnemonic, mnemonics_of_rows, globalClasses, operatorClasses, frequencyClasses, voiceClasses]

/-- R84: every address of a port has a class, UNRECOGNISED or a recognised one. -/
theorem countDecoded_unrecognised_add (p : Port) :
    countDecoded p ["UNRECOGNISED"] + countDecoded p (opcodeRows.map (·.mnemonic)) = 256 := by
  rw [← countDecoded_append p (by decide), countDecoded, List.filter_eq_self.mpr, List.length_range]
  intro a _
  exact List.contains_iff_mem.mpr (mnemonic_mem_classes _)

set_option maxRecDepth 8000 in
/-- R85: the addresses of each family, on each port. -/
theorem countDecoded_families (p : Port) :
    countDecoded p globalClasses = (if p = 0 then 6 else 0) ∧ countDecoded p operatorClasses = 72 ∧
    countDecoded p ["WR_UNDOC_9X"] = 15 ∧ countDecoded p frequencyClasses = 12 ∧ countDecoded p voiceClasses = 6 := by
  simp only [countDecoded, decode_pack]
  revert p
  decide

/-- R85: the recognised addresses of a port are 105, and on port 0 the six global ones. -/
theorem countDecoded_recognised (p : Port) :
    countDecoded p (opcodeRows.map (·.mnemonic)) = (if p = 0 then 6 else 0) + 105 := by
  obtain ⟨hglobal, hfamilies⟩ := countDecoded_families p
  obtain ⟨hoperator, hundocumented, hfrequency, hvoice⟩ := hfamilies
  rw [mnemonics_of_rows, countDecoded_append p (by decide), countDecoded_append p (by decide),
    countDecoded_append p (by decide), countDecoded_append p (by decide), hglobal, hoperator, hundocumented,
    hfrequency, hvoice]

/-- Settles O13: the families are counted one by one; the totals are their sum, and what 256 leaves. -/
theorem recognisedSelectorsAreCounted : Obligations.RecognisedSelectorsAreCounted := by
  have hun := countDecoded_unrecognised_add
  simp only [countDecoded_recognised] at hun
  refine ⟨(countDecoded_families 0).1, (countDecoded_families 1).1, fun p => (countDecoded_families p).2,
    countDecoded_recognised 0, countDecoded_recognised 1, ?_, ?_⟩
  · simpa using hun 0
  · simpa using hun 1

end Sys2Proof

/-! ## The global registers (R100 to R110) -/

namespace Sys2Proof.Machine

/-- The frame of a write: it stores its byte, and keeps each part of the state that its class does not reach. -/
theorem keepsAllBut_effectOf {i : Instr} {s : State} {parts : List Part} (hraw : Part.raw ∈ parts)
    (hglobals : Part.globals ∉ parts → globalsAfter i s.params s.globals = s.globals)
    (hchannels : Part.channels ∉ parts → ∀ c, Instr.target i s.params s.globals.special ≠ .channel c)
    (hoperators : Part.operators ∉ parts → ∀ c o, reachesOperator i s.params s.globals.special c o = false)
    (hdiag : Part.diag ∉ parts → eventsOf i = []) :
    KeepsAllBut parts s (effectOf i (s.storeRaw i.port i.addr i.data)) := by
  refine ⟨by simp, by simp, fun h => ?_, fun h c => ?_, fun h c o => ?_, fun h => absurd hraw h, by simp, fun h => ?_,
    by simp, by simp⟩
  · exact (effectOf_globals i _).trans (hglobals h)
  · exact (chan_effectOf i _ c).trans (if_neg (hchannels h c))
  · exact (oper_effectOf i _ c o).trans (if_neg (Bool.eq_false_iff.mp (hoperators h c o)))
  · rw [effectOf_diag, hdiag h, List.append_nil, State.storeRaw_diag]

/-- A write that reaches no channel and no operator and emits no event assigns global fields alone. -/
theorem exec_assigns_globals_alone {i : Instr} {s : State} (hf : s.fault = none)
    (hchannels : ∀ c, Instr.target i s.params s.globals.special ≠ .channel c)
    (hoperators : ∀ c o, reachesOperator i s.params s.globals.special c o = false) (hdiag : eventsOf i = []) :
    ∃ t, exec i s = .next t ∧ t.globals = globalsAfter i s.params s.globals ∧
      StoresOnly i.port i.addr i.data s t ∧ KeepsAllBut [.globals, .raw] s t :=
  ⟨_, exec_of_running hf i, effectOf_globals i _, storesOnly_effectOf i s,
    keepsAllBut_effectOf (by decide) (absurd (by decide)) (fun _ => hchannels) (fun _ => hoperators) fun _ => hdiag⟩

/-! ### The mode pattern (R75, R104, R105) -/

/-- A legal pattern, 0b00 or 0b01, names the mode by its low bit. -/
theorem modeOf_of_legal {v : Byte} (h : v.extractLsb' 6 2 = 0b00 ∨ v.extractLsb' 6 2 = 0b01) :
    modeOf v = some (v.getLsbD 6) := by
  have hbit : v.getLsbD 6 = (v.extractLsb' 6 2).getLsbD 0 := by simp
  obtain h | h := h
  all_goals
    rw [hbit, modeOf, dataMode, h]
    rfl

theorem modeOf_of_invalid {v : Byte} (h : v.extractLsb' 6 2 = 0b10 ∨ v.extractLsb' 6 2 = 0b11) : modeOf v = none := by
  obtain h | h := h
  all_goals
    rw [modeOf, dataMode, h]
    rfl

theorem globalsAfter_wrMode_of_some {v : Byte} {special : Bool} (h : modeOf v = some special) (pm : Params)
    (g : Globals) : globalsAfter (.wrMode v) pm g = { withTimerBits v g with special := special } := by
  simp only [globalsAfter, h]

theorem globalsAfter_wrMode_of_none {v : Byte} (h : modeOf v = none) (pm : Params) (g : Globals) :
    globalsAfter (.wrMode v) pm g = if pm.invalidModeUpdatesTimerBits then withTimerBits v g else g := by
  simp only [globalsAfter, h]

theorem eventsOf_wrMode_of_some {v : Byte} {special : Bool} (h : modeOf v = some special) :
    eventsOf (.wrMode v) = [] := by
  simp only [eventsOf, h]

theorem eventsOf_wrMode_of_none {v : Byte} (h : modeOf v = none) :
    eventsOf (.wrMode v) = [⟨.invalidModePattern, 0, 0x27, v⟩] := by
  simp only [eventsOf, h]

/-- Settles O21: `modeOf` says of each pattern whether it is legal, and what a mode write does follows it. -/
theorem modeWriteFollowsItsPattern : Obligations.ModeWriteFollowsItsPattern := by
  intro v s hf
  refine ⟨decode_of_encode rfl rfl, _, exec_of_running hf _, fun hlegal => ?_, fun hinvalid => ?_,
    storesOnly_effectOf (.wrMode v) s⟩
  · have hmode := modeOf_of_legal hlegal
    refine ⟨(effectOf_globals _ _).trans (globalsAfter_wrMode_of_some hmode _ _), ?_⟩
    exact keepsAllBut_effectOf (by decide) (absurd (by decide)) (fun _ _ => nofun) (fun _ _ _ => rfl)
      fun _ => eventsOf_wrMode_of_some hmode
  · have hmode := modeOf_of_invalid hinvalid
    have hglobals := (effectOf_globals (.wrMode v) (s.storeRaw 0 0x27 v)).trans (globalsAfter_wrMode_of_none hmode _ _)
    refine ⟨?_, ?_, fun hupdate => ?_, fun hkeep => ?_, ?_⟩
    · rw [effectOf_globals, globalsAfter_special, modeAssigned, hmode]
      rfl
    · rw [effectOf_diag, eventsOf_wrMode_of_none hmode]
      rfl
    · exact hglobals.trans (if_pos hupdate)
    · exact hglobals.trans (if_neg (Bool.eq_false_iff.mp hkeep))
    · exact keepsAllBut_effectOf (by decide) (absurd (by decide)) (fun _ _ => nofun) (fun _ _ _ => rfl)
        (absurd (by decide))

/-! ### The channel code of a key write (R106, R107) -/

/-- R106: the codes of the channels, in their order. -/
theorem chcode_eq_getElem (c : ChanIx) :
    chcode c = (#v[0b000, 0b001, 0b010, 0b100, 0b101, 0b110] : Vector (BitVec 3) 6)[c.val] := by
  revert c
  decide

theorem keyChannel_eq_some_iff {v : Byte} {c : ChanIx} : keyChannel v = some c ↔ v.extractLsb' 0 3 = chcode c := by
  rw [keyChannel, dataChsel]
  generalize v.extractLsb' 0 3 = code
  revert code c
  decide

theorem keyChannel_eq_none_iff {v : Byte} :
    keyChannel v = none ↔ v.extractLsb' 0 3 = 0b011 ∨ v.extractLsb' 0 3 = 0b111 := by
  rw [keyChannel, dataChsel]
  generalize v.extractLsb' 0 3 = code
  revert code
  decide

theorem eventsOf_wrKey_of_some {v : Byte} {c : ChanIx} (h : keyChannel v = some c) : eventsOf (.wrKey v) = [] := by
  simp only [eventsOf, h]

theorem eventsOf_wrKey_of_none {v : Byte} (h : keyChannel v = none) :
    eventsOf (.wrKey v) = [⟨.invalidKeyChannel, 0, 0x28, v⟩] := by
  simp only [eventsOf, h]

theorem oper_effectOf_wrKey {v : Byte} {c : ChanIx} (h : keyChannel v = some c) (s : State) (d : ChanIx) (o : OpIx) :
    (effectOf (.wrKey v) s).oper d o =
      if d = c then { s.oper d o with enabled := keyFlag v o } else s.oper d o := by
  simp only [oper_effectOf, reachesOperator, operSetter, h, Option.some.injEq, decide_eq_true_eq, eq_comm (a := c)]

/-- Settles O22: `keyChannel` says of each code which channel it names, and what a key write does follows it. -/
theorem keyWriteFollowsItsChannelCode : Obligations.KeyWriteFollowsItsChannelCode := by
  intro v s hf
  refine ⟨decode_of_encode rfl rfl, decode_pack_unrecognised rfl, _, exec_of_running hf _, fun c hcode => ?_,
    fun hinvalid => ?_, storesOnly_effectOf (.wrKey v) s⟩
  · have hchannel : keyChannel v = some c := keyChannel_eq_some_iff.mpr (hcode.trans (chcode_eq_getElem c).symm)
    refine ⟨oper_effectOf_wrKey hchannel _, ?_⟩
    exact keepsAllBut_effectOf (by decide) (fun _ => rfl) (fun _ _ => nofun) (absurd (by decide))
      fun _ => eventsOf_wrKey_of_some hchannel
  · have hchannel : keyChannel v = none := keyChannel_eq_none_iff.mpr hinvalid
    refine ⟨?_, keepsAllBut_effectOf (by decide) (fun _ => rfl) (fun _ _ => nofun) (fun _ c o => ?_)
      (absurd (by decide))⟩
    · rw [effectOf_diag, eventsOf_wrKey_of_none hchannel]
      rfl
    · simp only [reachesOperator, hchannel, reduceCtorEq, decide_false]

/-! ### The writes without cases: LFO, timer B and DAC (R100, R102, R109, R110) -/

/-- Settles O19: the write assigns globals alone, and port 1 has no global address. -/
theorem lfoWriteSetsEnableAndFrequency : Obligations.LfoWriteSetsEnableAndFrequency := fun _ _ hf =>
  ⟨decode_of_encode rfl rfl, decode_pack_unrecognised rfl,
    exec_assigns_globals_alone hf (fun _ => nofun) (fun _ _ => rfl) rfl⟩

/-- Settles O20: the write assigns globals alone. -/
theorem timerBWriteSetsTheReloadValue : Obligations.TimerBWriteSetsTheReloadValue := fun _ _ hf =>
  ⟨decode_of_encode rfl rfl, exec_assigns_globals_alone hf (fun _ => nofun) (fun _ _ => rfl) rfl⟩

/-- Settles O24: the write assigns globals alone. -/
theorem dacEnableWriteSetsTheEnableBit : Obligations.DacEnableWriteSetsTheEnableBit := fun _ _ hf =>
  ⟨decode_of_encode rfl rfl, exec_assigns_globals_alone hf (fun _ => nofun) (fun _ _ => rfl) rfl⟩

/-- Settles O23: the class reaches no part of the state but the raw byte. -/
theorem dacDataWriteReachesTheRawMapAlone : Obligations.DacDataWriteReachesTheRawMapAlone := fun v s hf =>
  ⟨decode_of_encode rfl rfl, _, exec_of_running hf _, storesOnly_effectOf (.wrDacData v) s,
    keepsAllBut_effectOf (by decide) (fun _ => rfl) (fun _ _ => nofun) (fun _ _ _ => rfl) fun _ => rfl⟩

end Sys2Proof.Machine

/-! ## The operator registers (R130 to R142) -/

namespace Sys2Proof.Machine

/-- A write with a channel or operator target assigns no globals and has nothing to report (R76, R213). -/
theorem globalsAfter_and_eventsOf_of_target {i : Instr} {pm : Params} {special : Bool}
    (h : Instr.target i pm special ≠ .other) (g : Globals) : globalsAfter i pm g = g ∧ eventsOf i = [] := by
  cases i
  case wrLfo | wrTimerB | wrMode | wrKey | wrDacData | wrDacEn | wrUndoc9x | unrecognised => exact absurd rfl h
  all_goals exact ⟨rfl, rfl⟩

/-- A write whose target is an operator rewrites that operator by its class, stores its byte, and does nothing else. -/
theorem exec_writes_operator_alone {i : Instr} {s : State} {c : ChanIx} {o : OpIx} (hf : s.fault = none)
    (htarget : Instr.target i s.params s.globals.special = .operator c o) :
    ∃ t, exec i s = .next t ∧ WritesOnlyOperator c o (operSetter i o (s.oper c o)) s t ∧
      StoresOnly i.port i.addr i.data s t ∧ KeepsAllBut [.operators, .raw] s t := by
  have htarget_ne : Instr.target i s.params s.globals.special ≠ .other := by simp [htarget]
  obtain ⟨hglobals, hevents⟩ := globalsAfter_and_eventsOf_of_target htarget_ne s.globals
  refine ⟨_, exec_of_running hf i, oper_effectOf_of_operator (s := s.storeRaw i.port i.addr i.data) htarget,
    storesOnly_effectOf i s, ?_⟩
  exact keepsAllBut_effectOf (by decide) (fun _ => hglobals) (fun _ c => by simp [htarget]) (absurd (by decide))
    fun _ => hevents

/-- An operator class is given by its address, its target (R72, R73) and what it makes of the operator's fields. -/
theorem writesOneOperator_of_class {grp : Nat} {instr : Port → Slot → Offset → Byte → Instr}
    {set : Byte → Operator → Operator}
    (hdecode : ∀ p slot co v,
      decode (Transaction.pack p (BitVec.ofNat 8 (16 * grp + 4 * slot.val + co.val)) v) = instr p slot co v)
    (htarget : ∀ p slot co v pm special,
      Instr.target (instr p slot co v) pm special = .operator (channelAt p co) (pm.operatorOfSlot slot))
    (hset : ∀ p slot co v o, operSetter (instr p slot co v) o = set v) : WritesOneOperator grp instr set := by
  intro p slot co v s hf
  obtain ⟨t, hexec, hoper, hraw, hkeeps⟩ := exec_writes_operator_alone hf (htarget p slot co v _ _)
  refine ⟨hdecode p slot co v, t, channelAt p co, rfl, hexec, ?_, ?_, hkeeps⟩
  · rwa [hset] at hoper
  · rwa [← hdecode, Instr.port_decode, Instr.addr_decode, Instr.data_decode, Transaction.port_pack,
      Transaction.addr_pack, Transaction.data_pack] at hraw

/-- Settles O25: `setDtMul` assigns `dt` and `mul`. -/
theorem dtMulWriteSetsDetuneAndMultiply : Obligations.DtMulWriteSetsDetuneAndMultiply :=
  writesOneOperator_of_class (fun _ _ _ _ => decode_of_encode rfl rfl) (fun _ _ _ _ _ _ => rfl) fun _ _ _ _ _ => rfl

/-- Settles O26: `setTl` assigns `tl`. -/
theorem tlWriteSetsTotalLevel : Obligations.TlWriteSetsTotalLevel :=
  writesOneOperator_of_class (fun _ _ _ _ => decode_of_encode rfl rfl) (fun _ _ _ _ _ _ => rfl) fun _ _ _ _ _ => rfl

/-- Settles O27: `setKsAr` assigns `ks` and `ar`. -/
theorem ksArWriteSetsScalingAndAttack : Obligations.KsArWriteSetsScalingAndAttack :=
  writesOneOperator_of_class (fun _ _ _ _ => decode_of_encode rfl rfl) (fun _ _ _ _ _ _ => rfl) fun _ _ _ _ _ => rfl

/-- Settles O28: `setAmD1r` assigns `am` and `d1r`. -/
theorem amD1rWriteSetsModulationAndDecay : Obligations.AmD1rWriteSetsModulationAndDecay :=
  writesOneOperator_of_class (fun _ _ _ _ => decode_of_encode rfl rfl) (fun _ _ _ _ _ _ => rfl) fun _ _ _ _ _ => rfl

/-- Settles O29: `setD2r` assigns `d2r`. -/
theorem d2rWriteSetsSecondDecay : Obligations.D2rWriteSetsSecondDecay :=
  writesOneOperator_of_class (fun _ _ _ _ => decode_of_encode rfl rfl) (fun _ _ _ _ _ _ => rfl) fun _ _ _ _ _ => rfl

/-- Settles O30: `setD1lRr` assigns `d1l` and `rr`. -/
theorem d1lRrWriteSetsAmplitudeAndRelease : Obligations.D1lRrWriteSetsAmplitudeAndRelease :=
  writesOneOperator_of_class (fun _ _ _ _ => decode_of_encode rfl rfl) (fun _ _ _ _ _ _ => rfl) fun _ _ _ _ _ => rfl

/-- Settles O31: the class has no target, and `eventsOf` gives it one event. -/
theorem undocumentedWriteIsStoredAndLoggedOnly : Obligations.UndocumentedWriteIsStoredAndLoggedOnly := by
  intro p low v s hf
  refine ⟨decode_of_encode rfl rfl, _, exec_of_running hf _, effectOf_diag (.wrUndoc9x p low v) _,
    storesOnly_effectOf (.wrUndoc9x p low v) s, ?_⟩
  exact keepsAllBut_effectOf (by decide) (fun _ => rfl) (fun _ _ => nofun) (fun _ _ _ => rfl) (absurd (by decide))

end Sys2Proof.Machine

/-! ## The channel registers (R160 to R172) -/

namespace Sys2Proof.Machine

/-- A write whose target is a channel rewrites that channel by its class, stores its byte, and does nothing else. -/
theorem exec_writes_channel_alone {i : Instr} {s : State} {c : ChanIx} (hf : s.fault = none)
    (htarget : Instr.target i s.params s.globals.special = .channel c) :
    ∃ t, exec i s = .next t ∧ WritesOnlyChannel c (chanSetter i (s.chan c)) s t ∧
      StoresOnly i.port i.addr i.data s t ∧ KeepsAllBut [.channels, .raw] s t := by
  have htarget_ne : Instr.target i s.params s.globals.special ≠ .other := by simp [htarget]
  obtain ⟨hglobals, hevents⟩ := globalsAfter_and_eventsOf_of_target htarget_ne s.globals
  refine ⟨_, exec_of_running hf i, chan_effectOf_of_channel (s := s.storeRaw i.port i.addr i.data) htarget,
    storesOnly_effectOf i s, ?_⟩
  exact keepsAllBut_effectOf (by decide) (fun _ => hglobals) (absurd (by decide))
    (fun _ d o => by simp [reachesOperator_of_target htarget_ne, htarget]) fun _ => hevents

/-! ### The channel frequency, and its redirect in special mode (R160, R162) -/

theorem freqTarget_of_redirected {co : Offset} {special : Bool} (h : co = 2 ∧ special = true) (p : Port) :
    freqTarget p co special = .operator (channelAt p co) 0 := by
  rw [freqTarget, if_pos h, h.1, specialChannel]

theorem freqTarget_of_direct {co : Offset} {special : Bool} (h : ¬(co = 2 ∧ special = true)) (p : Port) :
    freqTarget p co special = .channel (channelAt p co) := if_neg h

/-- R80: a frequency write rewrites operator 0 of its channel when it is redirected, and the channel itself when not. -/
theorem exec_writes_freqTarget {i : Instr} {s : State} {p : Port} {co : Offset} (hf : s.fault = none)
    (htarget : Instr.target i s.params s.globals.special = freqTarget p co s.globals.special) :
    ∃ t, exec i s = .next t ∧
      (co = 2 ∧ s.globals.special = true →
        WritesOnlyOperator (channelAt p co) 0 (operSetter i 0 (s.oper (channelAt p co) 0)) s t ∧
        KeepsAllBut [.operators, .raw] s t) ∧
      (¬(co = 2 ∧ s.globals.special = true) →
        WritesOnlyChannel (channelAt p co) (chanSetter i (s.chan (channelAt p co))) s t ∧
        KeepsAllBut [.channels, .raw] s t) ∧
      StoresOnly i.port i.addr i.data s t := by
  by_cases hredirect : co = 2 ∧ s.globals.special = true
  · rw [freqTarget_of_redirected hredirect] at htarget
    obtain ⟨t, hexec, hoper, hraw, hkeeps⟩ := exec_writes_operator_alone hf htarget
    exact ⟨t, hexec, fun _ => ⟨hoper, hkeeps⟩, absurd hredirect, hraw⟩
  · rw [freqTarget_of_direct hredirect] at htarget
    obtain ⟨t, hexec, hchan, hraw, hkeeps⟩ := exec_writes_channel_alone hf htarget
    exact ⟨t, hexec, (absurd · hredirect), fun _ => ⟨hchan, hkeeps⟩, hraw⟩

/-- Settles O32: the target is `freqTarget`, and both setters assign `fnum_lo`. -/
theorem fnumLoWriteFollowsTheMode : Obligations.FnumLoWriteFollowsTheMode := by
  intro p co v s hf
  obtain ⟨t, ht⟩ := exec_writes_freqTarget (i := .wrFnumLo p co v) hf rfl
  exact ⟨decode_of_encode rfl rfl, t, channelAt p co, rfl, ht⟩

/-- Settles O33: the target is `freqTarget`, and both setters assign `block` and `fnum_hi`. -/
theorem fnumHiWriteFollowsTheMode : Obligations.FnumHiWriteFollowsTheMode := by
  intro p co v s hf
  obtain ⟨t, ht⟩ := exec_writes_freqTarget (i := .wrFnumHi p co v) hf rfl
  exact ⟨decode_of_encode rfl rfl, t, channelAt p co, rfl, ht⟩

/-! ### The operator frequencies of channels 2 and 5 (R164, R166) -/

/-- R6: a well-formed `OP_FREQ_MAP` never names operator 0. -/
theorem operatorOfFreq_ne_zero {pm : Params} (hwf : pm.WellFormed) (co : Offset) : pm.operatorOfFreq co ≠ 0 := by
  obtain ⟨-, -, hne⟩ := hwf
  exact hne co

/-- Settles O34: the target does not read the mode, and the setter assigns `fnum_lo`. -/
theorem opFnumLoWriteIgnoresTheMode : Obligations.OpFnumLoWriteIgnoresTheMode := by
  intro p co v s hf
  obtain ⟨t, hexec, hwrites⟩ := exec_writes_operator_alone (i := .wrOpFnumLo p co v) hf rfl
  exact ⟨decode_of_encode rfl rfl, t, specialChannel p, rfl, hexec, (operatorOfFreq_ne_zero · co), hwrites⟩

/-- Settles O35: the target does not read the mode, and the setter assigns `block` and `fnum_hi`. -/
theorem opFnumHiWriteIgnoresTheMode : Obligations.OpFnumHiWriteIgnoresTheMode := by
  intro p co v s hf
  obtain ⟨t, hexec, hwrites⟩ := exec_writes_operator_alone (i := .wrOpFnumHi p co v) hf rfl
  exact ⟨decode_of_encode rfl rfl, t, specialChannel p, rfl, hexec, (operatorOfFreq_ne_zero · co), hwrites⟩

/-! ### Feedback and algorithm, stereo and LFO sensitivities (R170, R172) -/

/-- Settles O36: the target is the channel of the offset, and the setter assigns `fb` and `alg`. -/
theorem fbAlgWriteSetsFeedbackAndAlgorithm : Obligations.FbAlgWriteSetsFeedbackAndAlgorithm := by
  intro p co v s hf
  obtain ⟨t, ht⟩ := exec_writes_channel_alone (i := .wrFbAlg p co v) hf rfl
  exact ⟨decode_of_encode rfl rfl, t, channelAt p co, rfl, ht⟩

/-- Settles O37: the target is the channel of the offset, and the setter assigns the four fields. -/
theorem lrAmsFmsWriteSetsStereoAndSensitivity : Obligations.LrAmsFmsWriteSetsStereoAndSensitivity := by
  intro p co v s hf
  obtain ⟨t, ht⟩ := exec_writes_channel_alone (i := .wrLrAmsFms p co v) hf rfl
  exact ⟨decode_of_encode rfl rfl, t, channelAt p co, rfl, ht⟩

end Sys2Proof.Machine

/-! ## Snapshot equality, part by part (R195, R196) -/

namespace Sys2Proof.Machine

/-- R195: the index, the algorithm, the feedback and the four operators decide. -/
theorem chEq_iff {fields : List OperatorField} {x y : ChannelSnapshot} :
    chEq fields x y = true ↔
      x.index = y.index ∧ x.alg = y.alg ∧ x.fb = y.fb ∧
      ∀ k : OpIx, opEq fields x.ops[k.val] y.ops[k.val] = true := by
  have hops : (∀ k : OpIx, opEq fields x.ops[k.val] y.ops[k.val] = true) ↔
      opEq fields x.ops[0] y.ops[0] = true ∧ opEq fields x.ops[1] y.ops[1] = true ∧
        opEq fields x.ops[2] y.ops[2] = true ∧ opEq fields x.ops[3] y.ops[3] = true := by
    simp [Fin.forall_fin_succ]
  simp only [hops, chEq, Bool.and_eq_true, beq_iff_eq, and_assoc]

/-- The 14 fields of R32, one by one. -/
theorem forall_operatorField {P : OperatorField → Prop} :
    (∀ f, P f) ↔ P .dt ∧ P .mul ∧ P .tl ∧ P .ks ∧ P .ar ∧ P .am ∧ P .d1r ∧ P .d2r ∧ P .d1l ∧ P .rr ∧ P .fnumLo ∧
      P .fnumHi ∧ P .block ∧ P .enabled := by
  constructor
  · intro h
    simp only [h, and_self]
  · intro h f
    cases f <;> simp only [h]

/-- R196: only the fields of the parameter are compared. -/
theorem opEq_iff {fields : List OperatorField} {x y : OperatorSnapshot} :
    opEq fields x y = true ↔ ∀ f, f ∈ fields → sameField f x y = true := by
  rw [opEq, List.all_eq_true]

/-- The default `OPERATOR_EQ_FIELDS` leaves no field out (R6, R32). -/
theorem mem_operatorFieldSet (f : OperatorField) : f ∈ operatorFieldSet := by
  cases f <;> decide

/-- Operators of one index are equal when all their fields are. -/
theorem operator_eq_iff_sameField {x y : Operator} (hindex : x.index = y.index) :
    (∀ f, sameField f x y = true) ↔ x = y := by
  constructor
  · intro h
    rw [forall_operatorField] at h
    cases x
    cases y
    simp only [sameField, beq_iff_eq] at h hindex
    simp only [h, hindex]
  · rintro rfl f
    exact sameField_self f x

/-- Settles O55: `chEq_iff` for channels, `opEq_iff` spelt out field by field for operators; the default set has every
field. -/
theorem snapshotEqualityComparesTheListedParts : Obligations.SnapshotEqualityComparesTheListedParts := by
  refine ⟨fun fields x y => chEq_iff, fun fields x y => ?_, fun x y hindex => ?_⟩
  · rw [opEq_iff, forall_operatorField]
    simp only [sameField, beq_iff_eq]
  · rw [opEq_iff, ← operator_eq_iff_sameField hindex]
    exact forall_congr' fun f => imp_iff_right (mem_operatorFieldSet f)

/-! ## The queries (R190 to R193, R216) -/

/-- R190: a channel number answers with that channel's snapshot. -/
theorem queryChannel_of_lt {s : State} (hf : s.fault = none) (c : ChanIx) :
    queryChannel c.val s = .next (s.answer (.channel (s.snapshot c))) := by
  rw [queryChannel, whenRunning_of_running hf, dif_pos c.isLt]

theorem queryChannel_of_ge {s : State} (hf : s.fault = none) {i : Nat} (h : 6 ≤ i) :
    queryChannel i s = .next (s.raiseFault .channelIndexOutOfBounds) := by
  rw [queryChannel, whenRunning_of_running hf, dif_neg (Nat.not_lt.mpr h)]

/-- R191: a channel number and an operator number answer with that operator. -/
theorem queryOperator_of_lt {s : State} (hf : s.fault = none) (c : ChanIx) (o : OpIx) :
    queryOperator c.val o.val s = .next (s.answer (.operator (s.oper c o))) := by
  rw [queryOperator, whenRunning_of_running hf, dif_pos c.isLt, dif_pos o.isLt]

/-- R216: a channel index out of range faults whatever the operator index is. -/
theorem queryOperator_of_channel_ge {s : State} (hf : s.fault = none) {i : Nat} (h : 6 ≤ i) (j : Nat) :
    queryOperator i j s = .next (s.raiseFault .channelIndexOutOfBounds) := by
  rw [queryOperator, whenRunning_of_running hf, dif_neg (Nat.not_lt.mpr h)]

theorem queryOperator_of_operator_ge {s : State} (hf : s.fault = none) {i j : Nat} (hi : i < 6) (hj : 4 ≤ j) :
    queryOperator i j s = .next (s.raiseFault .operatorIndexOutOfBounds) := by
  rw [queryOperator, whenRunning_of_running hf, dif_pos hi, dif_neg (Nat.not_lt.mpr hj)]

/-- Settles O43: the query is taken from the state without it, and answers by the range of its index. -/
theorem channelQueryReturnsTheSnapshotOrFaults : Obligations.ChannelQueryReturnsTheSnapshotOrFaults := by
  intro s i rest hf hp
  have hf' : s.popped.fault = none := hf
  obtain rfl : rest = s.pending.tail := by rw [hp, List.tail_cons]
  rw [step_of_pending hp, takeOp]
  by_cases h : 6 ≤ i
  · exact ⟨_, queryChannel_of_ge hf' h, fun _ => rfl, fun c hc => absurd c.isLt (by omega)⟩
  · obtain ⟨c, rfl⟩ : ∃ c : ChanIx, c.val = i := ⟨⟨i, by omega⟩, rfl⟩
    refine ⟨_, queryChannel_of_lt hf' c, (absurd · h), fun d hd => ?_⟩
    obtain rfl := Fin.ext hd
    exact ⟨s.snapshot d, rfl, fun _ => rfl, rfl⟩

/-- Settles O44: the query is taken from the state without it, and answers by the ranges of its two indices. -/
theorem operatorQueryChecksTheChannelFirst : Obligations.OperatorQueryChecksTheChannelFirst := by
  intro s i j rest hf hp
  have hf' : s.popped.fault = none := hf
  obtain rfl : rest = s.pending.tail := by rw [hp, List.tail_cons]
  rw [step_of_pending hp, takeOp]
  by_cases hi : 6 ≤ i
  · exact ⟨_, queryOperator_of_channel_ge hf' hi j, fun _ => rfl, fun hlt => absurd hi (by omega),
      fun c _ hc => absurd c.isLt (by omega)⟩
  by_cases hj : 4 ≤ j
  · exact ⟨_, queryOperator_of_operator_ge hf' (by omega) hj, (absurd · hi), fun _ _ => rfl,
      fun _ o _ ho => absurd o.isLt (by omega)⟩
  · obtain ⟨c, rfl⟩ : ∃ c : ChanIx, c.val = i := ⟨⟨i, by omega⟩, rfl⟩
    obtain ⟨o, rfl⟩ : ∃ o : OpIx, o.val = j := ⟨⟨j, by omega⟩, rfl⟩
    refine ⟨_, queryOperator_of_lt hf' c o, (absurd · hi), fun _ => (absurd · hj), fun d q hd hq => ?_⟩
    obtain rfl := Fin.ext hd
    obtain rfl := Fin.ext hq
    rfl

/-! ## The detector after a write (R197, R198) -/

/-- A run of the detector rewrites its own three fields, and nothing else. -/
theorem detect_frame (s : State) :
    detect s = { s with prev := (detect s).prev, chg := (detect s).chg, dumps := (detect s).dumps } := by
  apply State.ext <;> simp

/-- R197: the dumps, as the channels that have them picked out in their order. -/
theorem flatMap_dumpsOf (s : State) (cs : List ChanIx) :
    cs.flatMap (dumpsOf s) =
      (cs.filter fun c => s.changed c && !s.chg[c.val]).map fun c => (c, s.prev[c.val]) := by
  induction cs with
  | nil => rfl
  | cons c cs ih =>
    rw [List.flatMap_cons, ih, dumpsOf, List.filter_cons]
    split <;> rfl

/-- An effect leaves the detector's fields alone, so that a channel has changed where its present snapshot differs from
the one that was retained before the write. -/
theorem changed_effectOf (i : Instr) (s : State) (c : ChanIx) :
    (effectOf i s).changed c = !chEq s.params.operatorEqFields ((effectOf i s).snapshot c) s.prev[c.val] := by
  simp only [State.changed, effectOf_params, effectOf_prev]

/-- Settles O56: the next state is the detector's run on what exec left, whose fields the `detect` lemmas give. -/
theorem detectorRunsAfterEveryWrite : Obligations.DetectorRunsAfterEveryWrite := by
  intro s w rest hf hp
  have hf' : s.popped.fault = none := hf
  obtain rfl : rest = s.pending.tail := by rw [hp, List.tail_cons]
  refine ⟨_, afterWrite w s, exec_of_running hf' (decode w), step_write_of_running hf hp, fun c => ⟨?_, ?_⟩, ?_, ?_⟩
  · exact prev_detect _ c
  · exact (chg_detect _ c).trans (changed_effectOf ..)
  · rw [afterWrite, dumps_detect, flatMap_dumpsOf]
    simp only [changed_effectOf, effectOf_prev, effectOf_chg, effectOf_dumps]
    rfl
  · exact detect_frame _

/-! ### A write that changes no channel and no operator (R198) -/

/-- R198: a run of the detector that finds every channel as retained clears every flag, dumps nothing and retains the
same snapshots. -/
theorem detect_of_in_sync {s : State} (h : ∀ c : ChanIx, s.prev[c.val] = s.snapshot c) :
    (∀ c : ChanIx, (detect s).chg[c.val] = false) ∧ (detect s).dumps = s.dumps ∧ (detect s).prev = s.prev := by
  have hchanged : ∀ c, s.changed c = false := fun c => by rw [State.changed, h, chEq_self, Bool.not_true]
  refine ⟨fun c => (chg_detect s c).trans (hchanged c), ?_, ?_⟩
  · rw [dumps_detect, flatMap_dumpsOf]
    simp [hchanged]
  · exact Vector.ext fun i hi => (prev_detect s ⟨i, hi⟩).trans (h ⟨i, hi⟩).symm

/-- The snapshots a write leaves do not depend on the raw byte it stores or on what is still pending. -/
theorem snapshot_effectOf_storeRaw_popped (i : Instr) (s : State) (p : Port) (a : Addr) (v : Byte) (c : ChanIx) :
    (effectOf i (s.popped.storeRaw p a v)).snapshot c = (effectOf i (s.storeRaw p a v)).snapshot c :=
  State.snapshot_congr (by rw [chan_effectOf, chan_effectOf]; rfl) fun o => by rw [oper_effectOf, oper_effectOf]; rfl

theorem State.snapshot_of_eq {s t : State} (hchannels : t.channels = s.channels)
    (hoperators : t.operators = s.operators) (c : ChanIx) : t.snapshot c = s.snapshot c := by
  simp only [State.snapshot, State.chan, hchannels, hoperators]

/-- R198: under the invariant, a write that leaves the channels and operators as they were ends every run of changes. -/
theorem afterWrite_of_unchanged {s t : State} {w : Transaction} (hinv : s.Inv) (ht : exec (decode w) s = .next t)
    (hchannels : t.channels = s.channels) (hoperators : t.operators = s.operators) :
    (∀ c : ChanIx, (afterWrite w s).chg[c.val] = false) ∧ (afterWrite w s).dumps = s.dumps ∧
      (afterWrite w s).prev = s.prev := by
  obtain ⟨-, rfl⟩ := exec_next_iff.mp ht
  have hsync := detect_of_in_sync
    (s := effectOf (decode w) (s.popped.storeRaw (decode w).port (decode w).addr (decode w).data)) fun c => by
      rw [snapshot_effectOf_storeRaw_popped, State.snapshot_of_eq hchannels hoperators, effectOf_prev]
      exact hinv.detectorInSync c
  rwa [effectOf_dumps, effectOf_prev] at hsync

/-! ### The writes that reach no channel and no operator -/

/-- A write without a target reaches no operator, but for a key write whose code names a channel (R106, R107). -/
theorem reachesOperator_of_target_other {i : Instr} {pm : Params} {special : Bool}
    (ht : Instr.target i pm special = .other) (hkey : ∀ v, i = .wrKey v → keyChannel v = none) (c : ChanIx) (o : OpIx) :
    reachesOperator i pm special c o = false := by
  cases i
  case wrKey v => simp [reachesOperator, hkey v rfl]
  all_goals simp only [reachesOperator, ht, reduceCtorEq, decide_false]

/-- Such a write leaves every channel and every operator as it was. -/
theorem exec_keeps_channels_and_operators {i : Instr} {s : State} (hf : s.fault = none)
    (ht : Instr.target i s.params s.globals.special = .other) (hkey : ∀ v, i = .wrKey v → keyChannel v = none) :
    ∃ t, exec i s = .next t ∧ t.channels = s.channels ∧ t.operators = s.operators := by
  refine ⟨_, exec_of_running hf i, State.channels_ext fun c => ?_, State.operators_ext fun c o => ?_⟩
  · exact chan_effectOf_of_other (s := s.storeRaw i.port i.addr i.data) ht c
  · rw [oper_effectOf, State.storeRaw_params, State.storeRaw_globals, reachesOperator_of_target_other ht hkey]
    rfl

/-- R106: a code that ends in 0b11 names no channel. -/
theorem keyChannel_of_low_bits {v : Byte} (h : v.extractLsb' 0 2 = 0b11) : keyChannel v = none := by
  revert v
  decide

theorem fields_of_decode_wrKey {w : Transaction} {v : Byte} (h : decode w = .wrKey v) :
    Transaction.addr w = 0x28 ∧ Transaction.data w = v := by
  rw [← Instr.addr_decode, ← Instr.data_decode, h]
  exact ⟨rfl, rfl⟩

theorem target_decodeUndocumented (p : Port) (a : Addr) (v : Byte) (pm : Params) (special : Bool) :
    Instr.target (decodeUndocumented p a v) pm special = .other := by
  simp only [decodeUndocumented]
  split <;> rfl

theorem decode_of_unrecognised {w : Transaction}
    (h : unrecognisedSelector (Transaction.port w) (Transaction.addr w) = true) :
    decode w = .unrecognised (Transaction.port w) (Transaction.addr w) (Transaction.data w) :=
  decodeSelector_eq_unrecognised_iff.mpr h

/-- Groups 0x2 and 0x9 hold the global and the undocumented addresses, which name no channel and no operator. -/
theorem target_decode_of_group {w : Transaction}
    (h : groupOf (Transaction.addr w) = 2 ∨ groupOf (Transaction.addr w) = 9) (pm : Params) (special : Bool) : Instr.target (decode w) pm special = .other := by
  obtain h | h := h
  · rw [decode, decodeSelector, h]
    exact target_decodeGlobal ..
  · rw [decode, decodeSelector, h]
    exact target_decodeUndocumented ..

/-- The writes R198 lists: none of them has a target, and a key write among them has an invalid code. -/
theorem listed_writes_reach_nothing {w : Transaction}
    (h : unrecognisedSelector (Transaction.port w) (Transaction.addr w) = true ∨
      (0x20 ≤ Transaction.addr w ∧ Transaction.addr w ≤ 0x27) ∨ (0x29 ≤ Transaction.addr w ∧ Transaction.addr w ≤ 0x2F) ∨
      (Transaction.addr w = 0x28 ∧ (Transaction.data w).extractLsb' 0 2 = 0b11) ∨
      (0x90 ≤ Transaction.addr w ∧ Transaction.addr w ≤ 0x9F)) :
    (∀ pm special, Instr.target (decode w) pm special = .other) ∧ ∀ v, decode w = .wrKey v → keyChannel v = none := by
  have hg := groupOf_eq (Transaction.addr w)
  have key_elsewhere : Transaction.addr w ≠ 0x28 → ∀ v, decode w = .wrKey v → keyChannel v = none :=
    fun hne v hv => absurd (fields_of_decode_wrKey hv).1 hne
  obtain h | ⟨hge, hle⟩ | ⟨hge, hle⟩ | ⟨haddr, hcode⟩ | ⟨hge, hle⟩ := h
  · rw [decode_of_unrecognised h]
    exact ⟨fun _ _ => rfl, nofun⟩
  · exact ⟨target_decode_of_group (.inl (by bv_omega)), key_elsewhere (by bv_omega)⟩
  · exact ⟨target_decode_of_group (.inl (by bv_omega)), key_elsewhere (by bv_omega)⟩
  · refine ⟨target_decode_of_group (.inl (by rw [haddr]; rfl)), fun v hv => ?_⟩
    rw [(fields_of_decode_wrKey hv).2] at hcode
    exact keyChannel_of_low_bits hcode
  · exact ⟨target_decode_of_group (.inr (by bv_omega)), key_elsewhere (by bv_omega)⟩

/-- Settles O57: `afterWrite_of_unchanged`, and each listed write is one that it speaks of. -/
theorem writeThatChangesNothingEndsEveryRunOfChanges : Obligations.WriteThatChangesNothingEndsEveryRunOfChanges := by
  intro s w rest hinv hf hp
  have hstep : step s = .next (afterWrite w s) := step_write_of_running hf hp
  refine ⟨fun t ht hchannels hoperators => ?_, fun hlisted => ?_⟩
  · exact ⟨_, hstep, afterWrite_of_unchanged hinv ht hchannels hoperators⟩
  · obtain ⟨htarget, hkey⟩ := listed_writes_reach_nothing hlisted
    obtain ⟨t, ht, hchannels, hoperators⟩ := exec_keeps_channels_and_operators hf (htarget _ _) hkey
    exact ⟨_, hstep, afterWrite_of_unchanged hinv ht hchannels hoperators⟩

end Sys2Proof.Machine

/-! ## The diagnostic of a write's cause (R211, R213) -/

namespace Sys2Proof.Machine

/-- R79: an address from 0x90 to 0x9E is undocumented on either port, and its write reports it. -/
theorem eventsOf_decode_of_undocumented {w : Transaction} (h : 0x90 ≤ Transaction.addr w ∧ Transaction.addr w ≤ 0x9E) :
    eventsOf (decode w) =
      [⟨.unmodelledRegister, Transaction.port w, Transaction.addr w, Transaction.data w⟩] := by
  obtain ⟨decodes, -⟩ := undocumentedGroupDecodes (Transaction.port w) (Transaction.data w)
  obtain ⟨low, -, hdecode, -⟩ := decodes _ h.1 h.2
  rw [Transaction.pack_fields] at hdecode
  have haddr := Instr.addr_decode w
  rw [hdecode] at haddr ⊢
  rw [eventsOf, haddr]

theorem decode_of_key_address {w : Transaction} (hp : Transaction.port w = 0) (ha : Transaction.addr w = 0x28) :
    decode w = .wrKey (Transaction.data w) := by
  rw [decode, hp, ha]
  rfl

theorem decode_of_mode_address {w : Transaction} (hp : Transaction.port w = 0) (ha : Transaction.addr w = 0x27) :
    decode w = .wrMode (Transaction.data w) := by
  rw [decode, hp, ha]
  rfl

theorem modeOf_eq_none_iff {v : Byte} : modeOf v = none ↔ v.extractLsb' 6 2 = 0b10 ∨ v.extractLsb' 6 2 = 0b11 := by
  rw [modeOf, dataMode]
  generalize v.extractLsb' 6 2 = pattern
  revert pattern
  decide

theorem undocumented_addr_range (p : Port) (low : Fin 15) (v : Byte) :
    0x90 ≤ Instr.addr (.wrUndoc9x p low v) ∧ Instr.addr (.wrUndoc9x p low v) ≤ 0x9E := by
  rw [Instr.addr]
  revert low
  decide

/-- R213: a write is silent where neither its selector nor its data byte gives cause for an event. -/
theorem eventsOf_eq_nil {i : Instr} (hwf : i.wellFormed = true) (hselector : unrecognisedSelector i.port i.addr ≠ true)
    (hundoc : ¬(0x90 ≤ i.addr ∧ i.addr ≤ 0x9E))
    (hkey : ¬(i.port = 0 ∧ i.addr = 0x28 ∧ (i.data.extractLsb' 0 3 = 0b011 ∨ i.data.extractLsb' 0 3 = 0b111)))
    (hmode : ¬(i.port = 0 ∧ i.addr = 0x27 ∧ (i.data.extractLsb' 6 2 = 0b10 ∨ i.data.extractLsb' 6 2 = 0b11))) :
    eventsOf i = [] := by
  cases i
  case unrecognised p a v => exact absurd hwf hselector
  case wrUndoc9x p low v => exact absurd (undocumented_addr_range p low v) hundoc
  case wrKey v =>
    obtain ⟨c, hc⟩ := Option.ne_none_iff_exists'.mp fun hnone => hkey ⟨rfl, rfl, keyChannel_eq_none_iff.mp hnone⟩
    exact eventsOf_wrKey_of_some hc
  case wrMode v =>
    obtain ⟨b, hb⟩ := Option.ne_none_iff_exists'.mp fun hnone => hmode ⟨rfl, rfl, modeOf_eq_none_iff.mp hnone⟩
    exact eventsOf_wrMode_of_some hb
  all_goals rfl

/-- R213: what a transaction's instruction reports is what its selector, and then its data byte, gives cause for. -/
theorem eventsOf_decode (w : Transaction) : eventsOf (decode w) = expectedEvents w := by
  dsimp only [expectedEvents]
  split_ifs with hselector hundoc hkey hmode
  · rw [decode_of_unrecognised hselector, eventsOf]
  · exact eventsOf_decode_of_undocumented hundoc
  · obtain ⟨hp, ha, hcode⟩ := hkey
    rw [decode_of_key_address hp ha, eventsOf_wrKey_of_none (keyChannel_eq_none_iff.mpr hcode)]
  · obtain ⟨hp, ha, hpattern⟩ := hmode
    rw [decode_of_mode_address hp ha, eventsOf_wrMode_of_none (modeOf_eq_none_iff.mpr hpattern)]
  · apply eventsOf_eq_nil (wellFormed_decode w)
    all_goals
      simp only [Instr.port_decode, Instr.addr_decode, Instr.data_decode]
      assumption

theorem length_eventsOf_le_one (i : Instr) : (eventsOf i).length ≤ 1 := by
  cases i
  case wrKey v => cases h : keyChannel v <;> simp [eventsOf, h]
  case wrMode v => cases h : modeOf v <;> simp [eventsOf, h]
  all_goals simp [eventsOf]

theorem afterWrite_diag (w : Transaction) (s : State) : (afterWrite w s).diag = s.diag ++ eventsOf (decode w) := by
  simp [afterWrite, effectOf_diag]

/-- Settles O41: a write that is taken appends the events of its instruction, which `eventsOf_decode` gives. -/
theorem writeEmitsTheDiagnosticOfItsCause : Obligations.WriteEmitsTheDiagnosticOfItsCause := by
  refine ⟨fun s w rest hf hp => ⟨afterWrite w s, step_write_of_running hf hp, ?_, ?_⟩, rfl, rfl, rfl, rfl⟩
  · rw [afterWrite_diag, eventsOf_decode]
  · exact eventsOf_decode w ▸ length_eventsOf_le_one (decode w)

/-! ## Faults (R214, R215) -/

theorem afterWrite_fault (w : Transaction) (s : State) : (afterWrite w s).fault = s.fault := by
  simp [afterWrite]

/-- R215: a faulted instance takes no operation, of whatever kind. -/
theorem takeOp_of_faulted {s : State} {code : FaultCode} (hf : s.fault = some code) (op : HostOp) :
    takeOp op s = .fault (.halted code) := by
  cases op with
  | write w => rw [takeOp, exec_of_faulted hf, thenDetect]
  | channel i => exact whenRunning_of_faulted hf _
  | operator i j => exact whenRunning_of_faulted hf _
  | rawRead p a => exact whenRunning_of_faulted hf _

/-- Settles O46: of all that a step can do (`step_next_cases`), `raiseFault` alone leaves a code in FAULT. -/
theorem faultIsFatalAndSticky : Obligations.FaultIsFatalAndSticky := by
  refine ⟨fun s t code hstep hcode => ?_,
    fun s code hf => ⟨step_of_faulted hf, exec_of_faulted hf, takeOp_of_faulted hf⟩⟩
  obtain ⟨hf, ⟨-, rfl⟩ | ⟨w, rest, -, rfl⟩ | ⟨a, rfl⟩ | ⟨raised, rfl, hquery⟩⟩ := step_next_cases hstep
  · simp [hf] at hcode
  · simp [afterWrite_fault, hf] at hcode
  · simp [hf] at hcode
  · obtain rfl : raised = code := Option.some.inj hcode
    obtain ⟨op, rest, hp⟩ : ∃ op rest, s.pending = op :: rest := by
      obtain ⟨i, rest, hp, -⟩ | ⟨i, j, rest, hp, -⟩ := hquery <;> exact ⟨_, _, hp⟩
    refine ⟨op, rest, hp, ?_⟩
    rw [State.raiseFault, State.popped, hp, List.tail_cons]

/-- The code that an operation raises in a running instance, if it raises one (R190, R191, R214). -/
def faultOf : HostOp → Option FaultCode
  | .channel i => if i < 6 then none else some .channelIndexOutOfBounds
  | .operator i j =>
    if i < 6 then if j < 4 then none else some .operatorIndexOutOfBounds else some .channelIndexOutOfBounds
  | .write _ | .rawRead _ _ => none

theorem faultOf_eq_channelIndex_iff {op : HostOp} : faultOf op = some .channelIndexOutOfBounds ↔
    (∃ i, op = .channel i ∧ 6 ≤ i) ∨ ∃ i j, op = .operator i j ∧ 6 ≤ i := by
  cases op with
  | write w | rawRead p a => simp [faultOf]
  | channel i => simp [faultOf]
  | operator i j =>
    simp only [faultOf]
    split_ifs <;> simp <;> omega

theorem faultOf_eq_operatorIndex_iff {op : HostOp} : faultOf op = some .operatorIndexOutOfBounds ↔
    ∃ i j, op = .operator i j ∧ i < 6 ∧ 4 ≤ j := by
  cases op with
  | write w | rawRead p a => simp [faultOf]
  | channel i => simp [faultOf]
  | operator i j =>
    simp only [faultOf]
    split_ifs <;> simp <;> omega

/-- An operation taken by a running instance leaves in FAULT the code that it raises, and no other. -/
theorem fault_of_takeOp {op : HostOp} {s t : State} (hf : s.fault = none) (h : takeOp op s = .next t) :
    t.fault = faultOf op := by
  cases op with
  | write w =>
    rw [takeOp, exec_of_running hf, thenDetect] at h
    obtain rfl := Host.Outcome.next.inj h
    simpa [faultOf] using hf
  | channel i =>
    obtain ⟨-, rfl⟩ := whenRunning_next_iff.mp h
    by_cases hi : i < 6 <;> simp [faultOf, hi, hf]
  | operator i j =>
    obtain ⟨-, rfl⟩ := whenRunning_next_iff.mp h
    by_cases hi : i < 6 <;> by_cases hj : j < 4 <;> simp [faultOf, hi, hj, hf]
  | rawRead p a =>
    obtain ⟨-, rfl⟩ := whenRunning_next_iff.mp h
    simp [faultOf, hf]

/-- R214: after a step, FAULT holds what the operation that was taken raises. -/
theorem fault_of_step {s t : State} (h : step s = .next t) : t.fault = s.pending.head?.bind faultOf := by
  obtain ⟨hf, -⟩ := step_next_cases h
  cases hp : s.pending with
  | nil =>
    rw [step_of_idle hp] at h
    obtain ⟨-, rfl⟩ := whenRunning_next_iff.mp h
    exact hf
  | cons op rest =>
    rw [step_of_pending hp] at h
    exact fault_of_takeOp (s := s.popped) hf h

/-- Settles O47: by `fault_of_step`, and `faultOf` is each code for exactly the queries out of its range. -/
theorem onlyOutOfRangeQueriesFault : Obligations.OnlyOutOfRangeQueriesFault := by
  refine ⟨fun s t hstep => ?_, rfl, rfl⟩
  rw [fault_of_step hstep]
  cases s.pending with
  | nil => simp
  | cons op rest => simp [faultOf_eq_channelIndex_iff, faultOf_eq_operatorIndex_iff]

end Sys2Proof.Machine

/-! ## Reset (R230, R231) -/

namespace Sys2Proof.Machine

theorem chan_construct (pm : Params) (rv : ResetValues) (c : ChanIx) :
    (State.construct pm rv).chan c = { rv.channel[c.val] with index := BitVec.ofNat 3 c.val } :=
  getElem_perChannel _ c

theorem oper_construct (pm : Params) (rv : ResetValues) (c : ChanIx) (o : OpIx) :
    (State.construct pm rv).oper c o = { rv.operator[c.val][o.val] with index := BitVec.ofNat 2 o.val } := by
  simp [State.oper, State.construct, numberedOperators]

/-- R36: the detector starts from the snapshots of the constructed state, with no change noted. -/
theorem detector_construct (pm : Params) (rv : ResetValues) (c : ChanIx) :
    (State.construct pm rv).prev[c.val] = (State.construct pm rv).snapshot c ∧
      (State.construct pm rv).chg[c.val] = false :=
  ⟨getElem_perChannel _ c, getElem_perChannel _ c⟩

/-- Settles O1: construction from the zero values, and R230's constant indices. -/
theorem resetHoldsTheSpecifiedValues : Obligations.ResetHoldsTheSpecifiedValues := by
  refine ⟨rfl, rfl, fun c => ?_, fun c o => ?_, fun _ _ => rfl, rfl, rfl, detector_construct _ _, rfl⟩
  · rw [State.reset, chan_construct, zeroResetValues, getElem_perChannel, zeroChannel]
  · rw [State.reset, oper_construct, zeroResetValues, getElem_perChannel, getElem_perOperator, zeroOperator]

/-! ## The mode, and the frequency writes after it (R236, R167) -/

theorem effectOf_wrMode_of_some {v : Byte} {special : Bool} (h : modeOf v = some special) (s : State) :
    effectOf (.wrMode v) s = s.updateGlobals fun g => { withTimerBits v g with special := special } := by
  simp only [effectOf, modeEffect, h]

/-- R80 at offset 2: a frequency write reaches operator 0 of channel 2 or 5 in special mode, and leaves the channels;
in normal mode it reaches the channel, and leaves the operators. -/
theorem exec_writes_special_channel {i : Instr} {s : State} {p : Port} (hf : s.fault = none)
    (htarget : Instr.target i s.params s.globals.special = freqTarget p 2 s.globals.special) :
    ∃ t, exec i s = .next t ∧
      (s.globals.special = true →
        WritesOnlyOperator (specialChannel p) 0 (operSetter i 0 (s.oper (specialChannel p) 0)) s t ∧
        t.channels = s.channels) ∧
      (s.globals.special = false →
        WritesOnlyChannel (specialChannel p) (chanSetter i (s.chan (specialChannel p))) s t ∧
        t.operators = s.operators) := by
  obtain ⟨t, hexec, hredirected, hdirect, -⟩ := exec_writes_freqTarget hf htarget
  refine ⟨t, hexec, fun hspecial => ?_, fun hnormal => ?_⟩
  · obtain ⟨hoper, -, -, -, hchannels, -⟩ := hredirected ⟨rfl, hspecial⟩
    exact ⟨hoper, State.channels_ext (hchannels (by decide))⟩
  · obtain ⟨hchan, -, -, -, -, hoperators, -⟩ := hdirect (by simp [hnormal])
    exact ⟨hchan, State.operators_ext (hoperators (by decide))⟩

/-- The state that a mode write of a legal pattern leaves: its low bit is the mode (R75, R104). -/
def State.afterLegalMode (s : State) (v : Byte) : State :=
  (s.storeRaw 0 0x27 v).updateGlobals fun g => { withTimerBits v g with special := v.getLsbD 6 }

theorem exec_wrMode_of_legal {s : State} (hf : s.fault = none) {v : Byte}
    (hlegal : v.extractLsb' 6 2 = 0b00 ∨ v.extractLsb' 6 2 = 0b01) :
    exec (.wrMode v) s = .next (s.afterLegalMode v) := by
  rw [exec_of_running hf, effectOf_wrMode_of_some (modeOf_of_legal hlegal)]
  rfl

theorem afterLegalMode_special (s : State) (v : Byte) :
    (s.afterLegalMode v).globals.special = (v.extractLsb' 6 2).getLsbD 0 := by
  simp [State.afterLegalMode]

/-- Settles O51: the mode bit is the pattern's after the mode write, and all else that a frequency write reads is as it
was before. -/
theorem modeWriteGovernsLaterFrequencyWrites : Obligations.ModeWriteGovernsLaterFrequencyWrites := by
  intro v w p s hf hlegal
  have hmode := afterLegalMode_special s v
  obtain ⟨lo, hlo, hlo_special, hlo_normal⟩ :=
    exec_writes_special_channel (i := .wrFnumLo p 2 w) (s := s.afterLegalMode v) hf rfl
  obtain ⟨hi, hhi, hhi_special, hhi_normal⟩ :=
    exec_writes_special_channel (i := .wrFnumHi p 2 w) (s := s.afterLegalMode v) hf rfl
  refine ⟨_, lo, hi, specialChannel p, rfl, exec_wrMode_of_legal hf hlegal, rfl, rfl, hlo, hhi,
    fun hpattern => ?_, fun hpattern => ?_⟩
  · rw [hpattern] at hmode
    obtain ⟨hlo_oper, hlo_channels⟩ := hlo_special hmode
    obtain ⟨hhi_oper, hhi_channels⟩ := hhi_special hmode
    exact ⟨hlo_oper, hlo_channels, hhi_oper, hhi_channels⟩
  · rw [hpattern] at hmode
    obtain ⟨hlo_chan, hlo_operators⟩ := hlo_normal hmode
    obtain ⟨hhi_chan, hhi_operators⟩ := hhi_normal hmode
    exact ⟨hlo_chan, hlo_operators, hhi_chan, hhi_operators⟩

end Sys2Proof.Machine

/-! ## Two writes, in either order (R236, R237) -/

namespace Sys2Proof.Machine

/-! ### The raw store and the effect -/

theorem reachesOperator_of_same_target {i : Instr} {pm : Params} {b b' : Bool}
    (h : Instr.target i pm b = Instr.target i pm b') (c : ChanIx) (o : OpIx) :
    reachesOperator i pm b c o = reachesOperator i pm b' c o := by
  cases i
  case wrKey v => rfl
  all_goals exact congrArg (fun t => decide (t = Target.operator c o)) h

/-- R33: no effect reads the raw maps, so a raw store may as well come after it. -/
theorem effectOf_storeRaw (i : Instr) (s : State) (p : Port) (a : Addr) (v : Byte) :
    effectOf i (s.storeRaw p a v) = (effectOf i s).storeRaw p a v := by
  have hglobals : (effectOf i (s.storeRaw p a v)).globals = (effectOf i s).globals := by
    rw [effectOf_globals, effectOf_globals]; rfl
  have hchannels : (effectOf i (s.storeRaw p a v)).channels = (effectOf i s).channels :=
    State.channels_ext fun c => by rw [chan_effectOf, chan_effectOf]; rfl
  have hoperators : (effectOf i (s.storeRaw p a v)).operators = (effectOf i s).operators :=
    State.operators_ext fun c o => by rw [oper_effectOf, oper_effectOf]; rfl
  have hdiag : (effectOf i (s.storeRaw p a v)).diag = (effectOf i s).diag := by
    rw [effectOf_diag, effectOf_diag]; rfl
  rw [effectOf_frame i (s.storeRaw p a v), hglobals, hchannels, hoperators, hdiag, effectOf_frame i s]
  rfl

/-- Two writes are to one selector: one port and one address (R70). -/
def SameSelector (i j : Instr) : Prop := i.port = j.port ∧ i.addr = j.addr

theorem storeRaw_comm {s : State} (hraw : Memory.wf s.raw) {p q : Port} {a b : Addr} (h : ¬(p = q ∧ a = b))
    (v w : Byte) : (s.storeRaw p a v).storeRaw q b w = (s.storeRaw q b w).storeRaw p a v := by
  have hkey : rawKey p a ≠ rawKey q b := fun hk => h (rawKey_inj.mp hk)
  simp only [State.storeRaw, Memory.write_comm hraw (rawKey_lt p a) (rawKey_lt q b) hkey]

/-! ### Two effects that commute -/

/-- What makes the order of two effects immaterial: neither moves the other's target, and where both assign fields of one
record, either order of the two assignments gives the same. -/
structure Independent (i j : Instr) (pm : Params) (g : Globals) : Prop where
  target_left : Instr.target i pm (globalsAfter j pm g).special = Instr.target i pm g.special
  target_right : Instr.target j pm (globalsAfter i pm g).special = Instr.target j pm g.special
  globals : globalsAfter j pm (globalsAfter i pm g) = globalsAfter i pm (globalsAfter j pm g)
  channel : ∀ c, Instr.target i pm g.special = .channel c → Instr.target j pm g.special = .channel c →
    ∀ ch, chanSetter j (chanSetter i ch) = chanSetter i (chanSetter j ch)
  operator : ∀ c o, reachesOperator i pm g.special c o = true → reachesOperator j pm g.special c o = true →
    ∀ op, operSetter j o (operSetter i o op) = operSetter i o (operSetter j o op)

/-- Two guarded rewritings commute when the two rewritings do wherever both guards hold. -/
theorem guarded_comm {α : Type} {P Q : Prop} [Decidable P] [Decidable Q] {f g : α → α}
    (h : P → Q → ∀ x, g (f x) = f (g x)) (x : α) :
    (if P then f (if Q then g x else x) else if Q then g x else x) =
      if Q then g (if P then f x else x) else if P then f x else x := by
  by_cases hP : P
  · by_cases hQ : Q
    · simp only [if_pos hP, if_pos hQ, h hP hQ]
    · simp only [if_neg hQ]
  · simp only [if_neg hP]

/-- Independent effects leave the same state in either order, but for the order of their events. -/
theorem effectOf_comm {i j : Instr} {s : State} (h : Independent i j s.params s.globals) :
    effectOf i (effectOf j s) = { effectOf j (effectOf i s) with diag := (effectOf i (effectOf j s)).diag } := by
  have hglobals : (effectOf i (effectOf j s)).globals = (effectOf j (effectOf i s)).globals := by
    simp only [effectOf_globals, effectOf_params, h.globals]
  have hchannels : (effectOf i (effectOf j s)).channels = (effectOf j (effectOf i s)).channels :=
    State.channels_ext fun c => by
      simp only [chan_effectOf, effectOf_params, effectOf_globals, h.target_left, h.target_right]
      exact guarded_comm (h.channel c) _
  have hoperators : (effectOf i (effectOf j s)).operators = (effectOf j (effectOf i s)).operators :=
    State.operators_ext fun c o => by
      simp only [oper_effectOf, effectOf_params, effectOf_globals, reachesOperator_of_same_target h.target_left,
        reachesOperator_of_same_target h.target_right]
      exact guarded_comm (h.operator c o) _
  apply State.ext <;> simp [hglobals, hchannels, hoperators]

/-- Independent writes to two selectors complete with the same state in either order, but for the order of their
events. -/
theorem exec_comm {i j : Instr} {s : State} (hf : s.fault = none) (hraw : Memory.wf s.raw) (hsel : ¬SameSelector i j)
    (hind : Independent i j s.params s.globals) :
    ∃ t u a b, exec i s = .next t ∧ exec j t = .next a ∧ exec j s = .next u ∧ exec i u = .next b ∧
      b = { a with diag := b.diag } ∧ a.diag = s.diag ++ eventsOf i ++ eventsOf j ∧
      b.diag = s.diag ++ eventsOf j ++ eventsOf i := by
  refine ⟨_, _, _, _, exec_of_running hf i, exec_of_running (by simpa using hf) j, exec_of_running hf j,
    exec_of_running (by simpa using hf) i, ?_, ?_, ?_⟩
  · rw [← effectOf_storeRaw, ← effectOf_storeRaw, storeRaw_comm hraw hsel]
    exact effectOf_comm hind
  · rw [effectOf_diag, State.storeRaw_diag, effectOf_diag, State.storeRaw_diag]
  · rw [effectOf_diag, State.storeRaw_diag, effectOf_diag, State.storeRaw_diag]

/-- Settles O52: the two write different fields, whatever they reach, neither assigns the mode, and neither reports. -/
theorem frequencyWritesCommute : Obligations.FrequencyWritesCommute := by
  intro p q co co' v w hi lo s hf hraw hhi hlo
  obtain ⟨hind, hsel, hhi_quiet, hlo_quiet⟩ :
      Independent hi lo s.params s.globals ∧ ¬SameSelector hi lo ∧ eventsOf hi = [] ∧ eventsOf lo = [] := by
    obtain rfl | rfl := hhi <;> obtain rfl | rfl := hlo
    all_goals
      refine ⟨⟨rfl, rfl, rfl, fun _ _ _ _ => rfl, fun _ _ _ _ _ => rfl⟩, fun ⟨_, haddr⟩ => ?_, rfl, rfl⟩
      obtain ⟨-, hslot, -⟩ := regAddr_inj haddr
      exact absurd hslot (by decide)
  obtain ⟨t, u, a, b, ht, ha, hu, hb, hab, hadiag, hbdiag⟩ := exec_comm hf hraw hsel hind
  have hdiag : b.diag = a.diag := by rw [hadiag, hbdiag, hhi_quiet, hlo_quiet]
  rw [hdiag] at hab
  obtain rfl : b = a := hab
  exact ⟨t, u, b, ht, ha, hu, hb⟩

end Sys2Proof.Machine

/-! ## Two writes to different selectors (R236) -/

namespace Sys2Proof.Machine

/-! ### Writes that reach the same record are to one selector, or assign different fields -/

theorem channelAt_inj {p q : Port} {co co' : Offset} (h : channelAt p co = channelAt q co') : p = q ∧ co = co' := by
  revert p q co co'
  decide

/-- R72, R73: a well-formed `OP_ADDR_MAP` gives two slots two operators, so one operator has one address in its group. -/
theorem operatorGroup_address_inj {pm : Params} (hwf : pm.WellFormed) {p q : Port} {slot slot' : Slot} {co co' : Offset}
    (h : Target.operator (channelAt p co) (pm.operatorOfSlot slot) =
      .operator (channelAt q co') (pm.operatorOfSlot slot')) : p = q ∧ slot = slot' ∧ co = co' := by
  obtain ⟨hslots, -, -⟩ := hwf
  obtain ⟨hc, ho⟩ := Target.operator.inj h
  obtain ⟨hp, hco⟩ := channelAt_inj hc
  exact ⟨hp, hslots _ _ ho, hco⟩

/-- R81: a well-formed `OP_FREQ_MAP` gives two offsets two operators. -/
theorem operatorFrequency_address_inj {pm : Params} (hwf : pm.WellFormed) {p q : Port} {co co' : Offset}
    (h : Target.operator (specialChannel p) (pm.operatorOfFreq co) =
      .operator (specialChannel q) (pm.operatorOfFreq co')) : p = q ∧ co = co' := by
  obtain ⟨-, hoffsets, -⟩ := hwf
  obtain ⟨hc, ho⟩ := Target.operator.inj h
  exact ⟨(channelAt_inj hc).1, hoffsets _ _ ho⟩

/-- R80: under one mode, two addresses of a frequency class never have one target. -/
theorem freqTarget_inj {p q : Port} {co co' : Offset} {special : Bool}
    (h : freqTarget p co special = freqTarget q co' special) : p = q ∧ co = co' := by
  revert p q co co' special
  decide

/-- R6, R80, R81: a redirected write reaches operator 0, which a well-formed `OP_FREQ_MAP` never names. -/
theorem freqTarget_ne_operatorFrequency {pm : Params} (hwf : pm.WellFormed) (p q : Port) (co co' : Offset)
    (special : Bool) : freqTarget p co special ≠ .operator (specialChannel q) (pm.operatorOfFreq co') := by
  intro h
  obtain ⟨-, -, ho⟩ := freqTarget_eq_operator_iff.mp h
  exact operatorOfFreq_ne_zero hwf co' ho.symm

/-- Two writes with a target that reach one operator have one target. -/
theorem target_eq_of_reach {t t' : Target} {c : ChanIx} {o : OpIx} (h : decide (t = .operator c o) = true)
    (h' : decide (t' = .operator c o) = true) : t = t' :=
  (of_decide_eq_true h).trans (of_decide_eq_true h').symm

/-- Writes to two selectors that reach one channel assign different fields of it: no class has two addresses for one
channel under one mode. -/
theorem chanSetter_comm {i j : Instr} (hsel : ¬SameSelector i j) {pm : Params} {special : Bool} {c : ChanIx}
    (hi : Instr.target i pm special = .channel c) (hj : Instr.target j pm special = .channel c) (ch : Channel) :
    chanSetter j (chanSetter i ch) = chanSetter i (chanSetter j ch) := by
  have htarget := hi.trans hj.symm
  cases i
  case wrLfo | wrTimerB | wrMode | wrKey | wrDacData | wrDacEn | wrDtMul | wrTl | wrKsAr | wrAmD1r | wrD2r | wrD1lRr
      | wrUndoc9x | wrOpFnumLo | wrOpFnumHi | unrecognised => rfl
  all_goals cases j
  case wrFnumLo.wrFnumLo | wrFnumHi.wrFnumHi =>
    obtain ⟨rfl, rfl⟩ := freqTarget_inj htarget
    exact absurd ⟨rfl, rfl⟩ hsel
  case wrFbAlg.wrFbAlg | wrLrAmsFms.wrLrAmsFms =>
    obtain ⟨rfl, rfl⟩ := channelAt_inj (Target.channel.inj htarget)
    exact absurd ⟨rfl, rfl⟩ hsel
  all_goals rfl

/-- Writes to two selectors that reach one operator assign different fields of it: with well-formed parameters no class
has two addresses for one operator, and no operator has its frequency at 0xA0-0xA6 and at 0xA8-0xAE as well. -/
theorem operSetter_comm {i j : Instr} (hsel : ¬SameSelector i j) {pm : Params} (hwf : pm.WellFormed) {special : Bool}
    {c : ChanIx} {o : OpIx} (hi : reachesOperator i pm special c o = true)
    (hj : reachesOperator j pm special c o = true) (op : Operator) :
    operSetter j o (operSetter i o op) = operSetter i o (operSetter j o op) := by
  cases i
  case wrLfo | wrTimerB | wrMode | wrDacData | wrDacEn | wrUndoc9x | wrFbAlg | wrLrAmsFms | unrecognised => rfl
  all_goals cases j
  case wrKey.wrKey => exact absurd ⟨rfl, rfl⟩ hsel
  case wrDtMul.wrDtMul | wrTl.wrTl | wrKsAr.wrKsAr | wrAmD1r.wrAmD1r | wrD2r.wrD2r | wrD1lRr.wrD1lRr =>
    obtain ⟨rfl, rfl, rfl⟩ := operatorGroup_address_inj hwf (target_eq_of_reach hi hj)
    exact absurd ⟨rfl, rfl⟩ hsel
  case wrFnumLo.wrFnumLo | wrFnumHi.wrFnumHi =>
    obtain ⟨rfl, rfl⟩ := freqTarget_inj (target_eq_of_reach hi hj)
    exact absurd ⟨rfl, rfl⟩ hsel
  case wrOpFnumLo.wrOpFnumLo | wrOpFnumHi.wrOpFnumHi =>
    obtain ⟨rfl, rfl⟩ := operatorFrequency_address_inj hwf (target_eq_of_reach hi hj)
    exact absurd ⟨rfl, rfl⟩ hsel
  case wrFnumLo.wrOpFnumLo | wrFnumHi.wrOpFnumHi =>
    exact (freqTarget_ne_operatorFrequency hwf _ _ _ _ _ (target_eq_of_reach hi hj)).elim
  case wrOpFnumLo.wrFnumLo | wrOpFnumHi.wrFnumHi =>
    exact (freqTarget_ne_operatorFrequency hwf _ _ _ _ _ (target_eq_of_reach hj hi)).elim
  all_goals rfl

/-- A mode byte assigns the mode and timer bits, which no write of another class does. -/
theorem globalsAfter_wrMode_comm {j : Instr} (v : Byte) (hj : ¬SameSelector (.wrMode v) j) (pm : Params)
    (g : Globals) :
    globalsAfter j pm (globalsAfter (.wrMode v) pm g) = globalsAfter (.wrMode v) pm (globalsAfter j pm g) := by
  cases hmode : modeOf v with
  | some special =>
    simp only [globalsAfter_wrMode_of_some hmode]
    cases j
    case wrMode => exact absurd ⟨rfl, rfl⟩ hj
    all_goals rfl
  | none =>
    simp only [globalsAfter_wrMode_of_none hmode]
    cases pm.invalidModeUpdatesTimerBits
    · rfl
    · cases j
      case wrMode => exact absurd ⟨rfl, rfl⟩ hj
      all_goals rfl

/-- Writes to two selectors assign different global fields. -/
theorem globalsAfter_comm {i j : Instr} (hsel : ¬SameSelector i j) (pm : Params) (g : Globals) :
    globalsAfter j pm (globalsAfter i pm g) = globalsAfter i pm (globalsAfter j pm g) := by
  cases i
  case wrMode v => exact globalsAfter_wrMode_comm v hsel pm g
  case wrKey | wrDacData | wrDtMul | wrTl | wrKsAr | wrAmD1r | wrD2r | wrD1lRr | wrUndoc9x | wrFnumLo | wrFnumHi
      | wrOpFnumLo | wrOpFnumHi | wrFbAlg | wrLrAmsFms | unrecognised => rfl
  all_goals cases j
  case wrLfo.wrLfo | wrTimerB.wrTimerB | wrDacEn.wrDacEn => exact absurd ⟨rfl, rfl⟩ hsel
  case wrLfo.wrMode _ w | wrTimerB.wrMode _ w | wrDacEn.wrMode _ w =>
    exact (globalsAfter_wrMode_comm w (fun ⟨hport, haddr⟩ => hsel ⟨hport.symm, haddr.symm⟩) pm g).symm
  all_goals rfl

/-! ### The one order dependence -/

/-- R104: a mode byte that assigns the mode bit has a legal pattern, whose low bit it is. -/
theorem modeOf_eq_some_iff {v : Byte} {special : Bool} :
    modeOf v = some special ↔ (v.extractLsb' 6 2 = 0b00 ∨ v.extractLsb' 6 2 = 0b01) ∧ v.getLsbD 6 = special := by
  refine ⟨fun h => ?_, fun ⟨hlegal, hbit⟩ => hbit ▸ modeOf_of_legal hlegal⟩
  have hlegal : v.extractLsb' 6 2 = 0b00 ∨ v.extractLsb' 6 2 = 0b01 := by
    rw [modeOf, dataMode] at h
    revert h
    generalize v.extractLsb' 6 2 = pattern
    revert pattern special
    decide
  exact ⟨hlegal, Option.some.inj ((modeOf_of_legal hlegal).symm.trans h)⟩

theorem modeAssigned_eq_some {i : Instr} {special : Bool} (h : modeAssigned i = some special) :
    i = .wrMode i.data ∧ modeOf i.data = some special := by
  cases i
  case wrMode v => exact ⟨rfl, h⟩
  all_goals exact absurd h nofun

/-- R167: unless their order matters, a write does not move the target of another. -/
theorem target_of_not_orderMatters {s : State} {w x : Transaction} (h : ¬OrderMatters s w x) :
    Instr.target (decode x) s.params (globalsAfter (decode w) s.params s.globals).special =
      Instr.target (decode x) s.params s.globals.special := by
  by_cases haddr : Transaction.addr x = 0xA2 ∨ Transaction.addr x = 0xA6
  · congr 1
    rw [globalsAfter_special]
    cases hmode : modeAssigned (decode w) with
    | none => rfl
    | some special =>
      obtain ⟨hdecode, hmode⟩ := modeAssigned_eq_some hmode
      rw [Instr.data_decode] at hdecode hmode
      obtain ⟨hlegal, rfl⟩ := modeOf_eq_some_iff.mp hmode
      have hselector : Transaction.selector w = 0x027 := by rw [← selector_decode, hdecode]; rfl
      by_contra hchanges
      exact h ⟨hselector, hlegal, hchanges, haddr⟩
  · obtain ⟨h2, h6⟩ := not_or.mp haddr
    exact target_mode_irrelevant (by rwa [Instr.addr_decode]) (by rwa [Instr.addr_decode]) ..

/-- R70: two transactions whose instructions have one port and one address have one selector. -/
theorem selector_eq_of_sameSelector {w x : Transaction} (h : SameSelector (decode w) (decode x)) :
    Transaction.selector w = Transaction.selector x := by
  obtain ⟨hport, haddr⟩ := h
  rw [← selector_decode, ← selector_decode, Laws.SelectorRow.selector, Laws.SelectorRow.selector, hport, haddr]

/-- Settles O53: writes to two selectors assign different fields of whatever they both reach, and neither moves the
other's target. -/
theorem otherWritesToDifferentAddressesCommute : Obligations.OtherWritesToDifferentAddressesCommute := by
  intro w x s hf hraw hwf hselector hwx hxw
  have hsel : ¬SameSelector (decode w) (decode x) := fun h => hselector (selector_eq_of_sameSelector h)
  have hind : Independent (decode w) (decode x) s.params s.globals :=
    { target_left := target_of_not_orderMatters hxw
      target_right := target_of_not_orderMatters hwx
      globals := globalsAfter_comm hsel _ _
      channel := fun _ => chanSetter_comm hsel
      operator := fun _ _ => operSetter_comm hsel hwf }
  simp only [← eventsOf_decode]
  exact exec_comm hf hraw hsel hind

end Sys2Proof.Machine

/-! ## The fields that mirror the raw maps (R52, R74)

A decoded field is the slice of the byte last written at its address exactly when writing that byte once more would
change nothing. In this form one argument serves every class: the write just taken is idempotent, and any other write
either misses the record or commutes with the one that is mirrored. -/

namespace Sys2Proof.Machine

/-- The write that the raw maps hold at the selector of `j`: `j` with the byte last written there. -/
def State.lastWrite (s : State) (j : Instr) : Instr := j.withData (s.rawByte j.port j.addr)

theorem target_withData (i : Instr) (v : Byte) (pm : Params) (special : Bool) :
    Instr.target (i.withData v) pm special = Instr.target i pm special := by
  cases i <;> rfl

/-- R70: a well-formed instruction is its selector and its data byte. -/
theorem eq_withData_of_sameSelector {i j : Instr} (hi : i.wellFormed = true) (hj : j.wellFormed = true)
    (h : SameSelector i j) : i = j.withData i.data := by
  obtain ⟨hport, haddr⟩ := h
  have hj' := decodeSelector_fields ((Instr.wellFormed_withData j i.data).trans hj)
  rw [Instr.port_withData, Instr.addr_withData, Instr.data_withData, ← hport, ← haddr, decodeSelector_fields hi] at hj'
  exact hj'

theorem lastWrite_effectOf_same {i j : Instr} (hi : i.wellFormed = true) (hj : j.wellFormed = true)
    (h : SameSelector i j) (s : State) : (effectOf i (s.storeRaw i.port i.addr i.data)).lastWrite j = i := by
  have hij := eq_withData_of_sameSelector hi hj h
  obtain ⟨hport, haddr⟩ := h
  rw [State.lastWrite, rawByte_effectOf, State.rawByte_storeRaw, if_pos ⟨hport.symm, haddr.symm⟩, ← hij]

theorem lastWrite_effectOf_other {i j : Instr} (h : ¬SameSelector i j) (s : State) :
    (effectOf i (s.storeRaw i.port i.addr i.data)).lastWrite j = s.lastWrite j := by
  rw [State.lastWrite, rawByte_effectOf, State.rawByte_storeRaw,
    if_neg fun ⟨hport, haddr⟩ => h ⟨hport.symm, haddr.symm⟩, State.lastWrite]

theorem sameSelector_lastWrite {i j : Instr} {s : State} : SameSelector i (s.lastWrite j) ↔ SameSelector i j := by
  rw [SameSelector, State.lastWrite, Instr.port_withData, Instr.addr_withData, SameSelector]

/-! ### One write keeps what is mirrored -/

section
variable {i j : Instr} (hi : i.wellFormed = true) (hj : j.wellFormed = true) {s : State}
include hi hj

/-- A channel that holds the last write of `j`, whose target no mode moves, holds it after any write. -/
theorem chan_holds_lastWrite {c : ChanIx} (htarget : ∀ special, Instr.target j s.params special = .channel c)
    (h : chanSetter (s.lastWrite j) (s.chan c) = s.chan c) :
    chanSetter ((effectOf i (s.storeRaw i.port i.addr i.data)).lastWrite j)
      ((effectOf i (s.storeRaw i.port i.addr i.data)).chan c) =
      (effectOf i (s.storeRaw i.port i.addr i.data)).chan c := by
  rw [chan_effectOf, State.chan_storeRaw, State.storeRaw_params, State.storeRaw_globals]
  by_cases hsel : SameSelector i j
  · have hreach : Instr.target i s.params s.globals.special = .channel c := by
      rw [eq_withData_of_sameSelector hi hj hsel, target_withData, htarget]
    rw [lastWrite_effectOf_same hi hj hsel, if_pos hreach, chanSetter_idem]
  · rw [lastWrite_effectOf_other hsel]
    split
    case isTrue hreach =>
      rw [chanSetter_comm (mt sameSelector_lastWrite.mp hsel) hreach ((target_withData ..).trans (htarget _)), h]
    case isFalse => exact h

/-- An operator that holds the last write of `j`, whose target no mode moves, holds it after any write. -/
theorem oper_holds_lastWrite (hwf : s.params.WellFormed) {c : ChanIx} {o : OpIx}
    (htarget : ∀ special, Instr.target j s.params special = .operator c o)
    (h : operSetter (s.lastWrite j) o (s.oper c o) = s.oper c o) :
    operSetter ((effectOf i (s.storeRaw i.port i.addr i.data)).lastWrite j) o
      ((effectOf i (s.storeRaw i.port i.addr i.data)).oper c o) =
      (effectOf i (s.storeRaw i.port i.addr i.data)).oper c o := by
  have hreach_of_same : ∀ v, reachesOperator (j.withData v) s.params s.globals.special c o = true := fun v => by
    have ht := (target_withData j v s.params s.globals.special).trans (htarget _)
    rw [reachesOperator_of_target (ht ▸ nofun), ht, decide_eq_true rfl]
  rw [oper_effectOf, State.oper_storeRaw, State.storeRaw_params, State.storeRaw_globals]
  by_cases hsel : SameSelector i j
  · have hreach := hreach_of_same i.data
    rw [← eq_withData_of_sameSelector hi hj hsel] at hreach
    rw [lastWrite_effectOf_same hi hj hsel, if_pos hreach, operSetter_idem]
  · rw [lastWrite_effectOf_other hsel]
    split
    case isTrue hreach =>
      rw [operSetter_comm (mt sameSelector_lastWrite.mp hsel) hwf hreach (hreach_of_same _), h]
    case isFalse => exact h

/-- Global fields that `assign` sets from the byte last written at `j`'s selector hold it after any write, where the
write of `j` assigns at least those fields and no other write assigns any of them. -/
theorem globals_hold_lastByte {assign : Byte → Globals → Globals}
    (hsame : ∀ v g, assign v (globalsAfter (j.withData v) s.params g) = globalsAfter (j.withData v) s.params g)
    (hother : ¬SameSelector i j → ∀ v g, assign v (globalsAfter i s.params g) = globalsAfter i s.params (assign v g))
    (h : assign (s.rawByte j.port j.addr) s.globals = s.globals) :
    assign ((effectOf i (s.storeRaw i.port i.addr i.data)).rawByte j.port j.addr)
      (effectOf i (s.storeRaw i.port i.addr i.data)).globals =
      (effectOf i (s.storeRaw i.port i.addr i.data)).globals := by
  rw [effectOf_globals, rawByte_effectOf, State.rawByte_storeRaw, State.storeRaw_params, State.storeRaw_globals]
  by_cases hsel : SameSelector i j
  · obtain ⟨hport, haddr⟩ := hsel
    have hassign := hsame i.data s.globals
    rw [← eq_withData_of_sameSelector hi hj ⟨hport, haddr⟩] at hassign
    rw [if_pos ⟨hport.symm, haddr.symm⟩, hassign]
  · rw [if_neg fun ⟨hport, haddr⟩ => hsel ⟨hport.symm, haddr.symm⟩, hother hsel, h]

/-- The same, for the fields that `j` itself assigns. -/
theorem globals_hold_lastWrite (h : globalsAfter (s.lastWrite j) s.params s.globals = s.globals) :
    globalsAfter ((effectOf i (s.storeRaw i.port i.addr i.data)).lastWrite j) s.params
      (effectOf i (s.storeRaw i.port i.addr i.data)).globals =
      (effectOf i (s.storeRaw i.port i.addr i.data)).globals :=
  globals_hold_lastByte hi hj (assign := fun v => globalsAfter (j.withData v) s.params)
    (fun v g => globalsAfter_idem (j.withData v) s.params g)
    (fun hsel v g => globalsAfter_comm (by rwa [SameSelector, Instr.port_withData, Instr.addr_withData]) s.params g) h

end

/-! ### The timer bits (R104)

A mode byte assigns them together with the mode bit, or alone, so they are followed apart from the mode bit. -/

theorem withTimerBits_globalsAfter_wrMode {pm : Params} (hpm : pm.invalidModeUpdatesTimerBits = true) (v : Byte)
    (g : Globals) : withTimerBits v (globalsAfter (.wrMode v) pm g) = globalsAfter (.wrMode v) pm g := by
  cases h : modeOf v with
  | none => rw [globalsAfter_wrMode_of_none h, if_pos hpm]; rfl
  | some special => rw [globalsAfter_wrMode_of_some h]; rfl

theorem withTimerBits_globalsAfter_other {i : Instr} {v : Byte} (h : ¬SameSelector i (.wrMode v)) (w : Byte)
    (pm : Params) (g : Globals) : withTimerBits w (globalsAfter i pm g) = globalsAfter i pm (withTimerBits w g) := by
  cases i
  case wrMode => exact absurd ⟨rfl, rfl⟩ h
  all_goals rfl

/-! ### A record that holds a byte has the byte's slices (R74) -/

theorem globalsAfter_wrLfo_eq_self_iff {v : Byte} {pm : Params} {g : Globals} :
    globalsAfter (.wrLfo v) pm g = g ↔ g.lfoEnable = v.getLsbD 3 ∧ g.lfoFreq = v.extractLsb' 0 3 := by
  cases g; simp [globalsAfter, dataLfoEnable, dataLfoFreq, eq_comm]

theorem globalsAfter_wrTimerB_eq_self_iff {v : Byte} {pm : Params} {g : Globals} :
    globalsAfter (.wrTimerB v) pm g = g ↔ g.timerB = v := by
  cases g; simp [globalsAfter, dataTimerB, eq_comm]

theorem globalsAfter_wrDacEn_eq_self_iff {v : Byte} {pm : Params} {g : Globals} :
    globalsAfter (.wrDacEn v) pm g = g ↔ g.dacEnable = v.getLsbD 7 := by
  cases g; simp [globalsAfter, dataDacEnable, eq_comm]

theorem withTimerBits_eq_self_iff {v : Byte} {g : Globals} :
    withTimerBits v g = g ↔ g.resetB = v.getLsbD 5 ∧ g.resetA = v.getLsbD 4 ∧ g.enableB = v.getLsbD 3 ∧
      g.enableA = v.getLsbD 2 ∧ g.loadB = v.getLsbD 1 ∧ g.loadA = v.getLsbD 0 := by
  cases g
  simp only [withTimerBits, dataResetB, dataResetA, dataEnableB, dataEnableA, dataLoadB, dataLoadA, Globals.mk.injEq]
  grind

theorem setDtMul_eq_self_iff {v : Byte} {op : Operator} :
    setDtMul v op = op ↔ op.dt = v.extractLsb' 4 3 ∧ op.mul = v.extractLsb' 0 4 := by
  cases op; simp [setDtMul, dataDt, dataMul, eq_comm]

theorem setTl_eq_self_iff {v : Byte} {op : Operator} : setTl v op = op ↔ op.tl = v.extractLsb' 0 7 := by
  cases op; simp [setTl, dataTl, eq_comm]

theorem setKsAr_eq_self_iff {v : Byte} {op : Operator} :
    setKsAr v op = op ↔ op.ks = v.extractLsb' 6 2 ∧ op.ar = v.extractLsb' 0 5 := by
  cases op; simp [setKsAr, dataKs, dataAr, eq_comm]

theorem setAmD1r_eq_self_iff {v : Byte} {op : Operator} :
    setAmD1r v op = op ↔ op.am = v.getLsbD 7 ∧ op.d1r = v.extractLsb' 0 5 := by
  cases op; simp [setAmD1r, dataAm, dataD1r, eq_comm]

theorem setD2r_eq_self_iff {v : Byte} {op : Operator} : setD2r v op = op ↔ op.d2r = v.extractLsb' 0 5 := by
  cases op; simp [setD2r, dataD2r, eq_comm]

theorem setD1lRr_eq_self_iff {v : Byte} {op : Operator} :
    setD1lRr v op = op ↔ op.d1l = v.extractLsb' 4 4 ∧ op.rr = v.extractLsb' 0 4 := by
  cases op; simp [setD1lRr, dataD1l, dataRr, eq_comm]

theorem setOperFnumLo_eq_self_iff {v : Byte} {op : Operator} : setOperFnumLo v op = op ↔ op.fnumLo = v := by
  cases op; simp [setOperFnumLo, dataFnumLo, eq_comm]

theorem setOperFnumHi_eq_self_iff {v : Byte} {op : Operator} :
    setOperFnumHi v op = op ↔ op.block = v.extractLsb' 3 3 ∧ op.fnumHi = v.extractLsb' 0 3 := by
  cases op; simp [setOperFnumHi, dataBlock, dataFnumHi, eq_comm, and_comm]

theorem setChanFnumLo_eq_self_iff {v : Byte} {ch : Channel} : setChanFnumLo v ch = ch ↔ ch.fnumLo = v := by
  cases ch; simp [setChanFnumLo, dataFnumLo, eq_comm]

theorem setChanFnumHi_eq_self_iff {v : Byte} {ch : Channel} :
    setChanFnumHi v ch = ch ↔ ch.block = v.extractLsb' 3 3 ∧ ch.fnumHi = v.extractLsb' 0 3 := by
  cases ch; simp [setChanFnumHi, dataBlock, dataFnumHi, eq_comm, and_comm]

theorem setFbAlg_eq_self_iff {v : Byte} {ch : Channel} :
    setFbAlg v ch = ch ↔ ch.fb = v.extractLsb' 3 3 ∧ ch.alg = v.extractLsb' 0 3 := by
  cases ch; simp [setFbAlg, dataFb, dataAlg, eq_comm, and_comm]

theorem setLrAmsFms_eq_self_iff {v : Byte} {ch : Channel} :
    setLrAmsFms v ch = ch ↔ ch.left = v.getLsbD 7 ∧ ch.right = v.getLsbD 6 ∧ ch.ams = v.extractLsb' 4 2 ∧
      ch.fms = v.extractLsb' 0 3 := by
  cases ch; simp [setLrAmsFms, dataLeft, dataRight, dataAms, dataFms, eq_comm]

/-! ### The step -/

/-- R80: a channel frequency write at offset 0 or 1 reaches its channel in either mode. -/
theorem freqTarget_of_ne_two {co : Offset} (hco : co ≠ 2) (p : Port) (special : Bool) :
    freqTarget p co special = .channel (channelAt p co) :=
  freqTarget_of_direct (fun h => hco h.1) p

/-- What is mirrored depends on the parameters, the registers and the raw maps alone. -/
theorem State.MirrorsRaw.congr {s t : State} (h : s.MirrorsRaw) (hparams : t.params = s.params)
    (hglobals : t.globals = s.globals) (hchannels : t.channels = s.channels) (hoperators : t.operators = s.operators)
    (hraw : t.raw = s.raw) : t.MirrorsRaw := by
  obtain ⟨⟩ := s
  obtain ⟨⟩ := t
  cases hparams; cases hglobals; cases hchannels; cases hoperators; cases hraw
  exact ⟨h.lfo, h.timerB, h.dac, h.timerBits, h.dtMul, h.tl, h.ksAr, h.amD1r, h.d2r, h.d1lRr, h.opFnum, h.fnum,
    h.fbAlg, h.lrAmsFms⟩

/-- Every write keeps what is mirrored: each field by the class that assigns it. -/
theorem mirrorsRaw_effectOf {i : Instr} {s : State} (h : s.MirrorsRaw) (hi : i.wellFormed = true)
    (hwf : s.params.WellFormed) : (effectOf i (s.storeRaw i.port i.addr i.data)).MirrorsRaw := by
  constructor
  case lfo =>
    exact globalsAfter_wrLfo_eq_self_iff.mp
      (globals_hold_lastWrite hi (j := .wrLfo 0) rfl (globalsAfter_wrLfo_eq_self_iff.mpr h.lfo))
  case timerB =>
    exact globalsAfter_wrTimerB_eq_self_iff.mp
      (globals_hold_lastWrite hi (j := .wrTimerB 0) rfl (globalsAfter_wrTimerB_eq_self_iff.mpr h.timerB))
  case dac =>
    exact globalsAfter_wrDacEn_eq_self_iff.mp
      (globals_hold_lastWrite hi (j := .wrDacEn 0) rfl (globalsAfter_wrDacEn_eq_self_iff.mpr h.dac))
  case timerBits =>
    rw [effectOf_params]
    exact fun hpm => withTimerBits_eq_self_iff.mp
      (globals_hold_lastByte hi (j := .wrMode 0) rfl (withTimerBits_globalsAfter_wrMode hpm)
        (fun hsel v g => withTimerBits_globalsAfter_other hsel v _ g) (withTimerBits_eq_self_iff.mpr (h.timerBits hpm)))
  case dtMul =>
    rw [effectOf_params]
    exact fun p slot co => setDtMul_eq_self_iff.mp (oper_holds_lastWrite hi (j := .wrDtMul p slot co 0) rfl hwf
      (fun _ => rfl) (setDtMul_eq_self_iff.mpr (h.dtMul p slot co)))
  case tl =>
    rw [effectOf_params]
    exact fun p slot co => setTl_eq_self_iff.mp (oper_holds_lastWrite hi (j := .wrTl p slot co 0) rfl hwf
      (fun _ => rfl) (setTl_eq_self_iff.mpr (h.tl p slot co)))
  case ksAr =>
    rw [effectOf_params]
    exact fun p slot co => setKsAr_eq_self_iff.mp (oper_holds_lastWrite hi (j := .wrKsAr p slot co 0) rfl hwf
      (fun _ => rfl) (setKsAr_eq_self_iff.mpr (h.ksAr p slot co)))
  case amD1r =>
    rw [effectOf_params]
    exact fun p slot co => setAmD1r_eq_self_iff.mp (oper_holds_lastWrite hi (j := .wrAmD1r p slot co 0) rfl hwf
      (fun _ => rfl) (setAmD1r_eq_self_iff.mpr (h.amD1r p slot co)))
  case d2r =>
    rw [effectOf_params]
    exact fun p slot co => setD2r_eq_self_iff.mp (oper_holds_lastWrite hi (j := .wrD2r p slot co 0) rfl hwf
      (fun _ => rfl) (setD2r_eq_self_iff.mpr (h.d2r p slot co)))
  case d1lRr =>
    rw [effectOf_params]
    exact fun p slot co => setD1lRr_eq_self_iff.mp (oper_holds_lastWrite hi (j := .wrD1lRr p slot co 0) rfl hwf
      (fun _ => rfl) (setD1lRr_eq_self_iff.mpr (h.d1lRr p slot co)))
  case opFnum =>
    rw [effectOf_params]
    intro p co
    obtain ⟨hlo, hhi⟩ := h.opFnum p co
    exact ⟨setOperFnumLo_eq_self_iff.mp (oper_holds_lastWrite hi (j := .wrOpFnumLo p co 0) rfl hwf
        (fun _ => rfl) (setOperFnumLo_eq_self_iff.mpr hlo)),
      setOperFnumHi_eq_self_iff.mp (oper_holds_lastWrite hi (j := .wrOpFnumHi p co 0) rfl hwf
        (fun _ => rfl) (setOperFnumHi_eq_self_iff.mpr hhi))⟩
  case fnum =>
    intro p co hco
    obtain ⟨hlo, hhi⟩ := h.fnum p co hco
    exact ⟨setChanFnumLo_eq_self_iff.mp (chan_holds_lastWrite hi (j := .wrFnumLo p co 0) rfl
        (freqTarget_of_ne_two hco p) (setChanFnumLo_eq_self_iff.mpr hlo)),
      setChanFnumHi_eq_self_iff.mp (chan_holds_lastWrite hi (j := .wrFnumHi p co 0) rfl
        (freqTarget_of_ne_two hco p) (setChanFnumHi_eq_self_iff.mpr hhi))⟩
  case fbAlg =>
    exact fun p co => setFbAlg_eq_self_iff.mp (chan_holds_lastWrite hi (j := .wrFbAlg p co 0) rfl
      (fun _ => rfl) (setFbAlg_eq_self_iff.mpr (h.fbAlg p co)))
  case lrAmsFms =>
    exact fun p co => setLrAmsFms_eq_self_iff.mp (chan_holds_lastWrite hi (j := .wrLrAmsFms p co 0) rfl
      (fun _ => rfl) (setLrAmsFms_eq_self_iff.mpr (h.lrAmsFms p co)))

/-- Settles O4: a write by `mirrorsRaw_effectOf`; the detector and the read ports touch no register. -/
theorem stepKeepsRegistersMirroringRaw : Obligations.StepKeepsRegistersMirroringRaw := by
  intro s t hwf h hstep
  have hpopped : s.popped.MirrorsRaw := h.congr rfl rfl rfl rfl rfl
  obtain ⟨-, ⟨-, rfl⟩ | ⟨w, rest, -, rfl⟩ | ⟨a, rfl⟩ | ⟨code, rfl, -⟩⟩ := step_next_cases hstep
  · exact h
  · exact (mirrorsRaw_effectOf hpopped (wellFormed_decode w) hwf).congr (detect_params _) (detect_globals _)
      (detect_channels _) (detect_operators _) (detect_raw _)
  · exact hpopped.congr rfl rfl rfl rfl rfl
  · exact hpopped.congr rfl rfl rfl rfl rfl

end Sys2Proof.Machine

/-! ## Every step keeps the invariant (R27, R30, R33, R197) -/

namespace Sys2Proof.Machine

/-- A write keeps the raw maps canonical and every constant index; the detector after it retains what it left. -/
theorem inv_afterWrite {s : State} (h : s.Inv) (w : Transaction) : (afterWrite w s).Inv where
  rawCanonical := by
    rw [afterWrite, detect_raw, effectOf_raw]
    exact Memory.wf_write h.rawCanonical (rawKey_lt ..) _
  channelIndex c := by
    rw [afterWrite, chan_detect, chan_effectOf]
    split
    · rw [chanSetter_index]
      exact h.channelIndex c
    · exact h.channelIndex c
  operatorIndex c o := by
    rw [afterWrite, oper_detect, oper_effectOf]
    split
    · rw [operSetter_index]
      exact h.operatorIndex c o
    · exact h.operatorIndex c o
  detectorInSync c := by rw [afterWrite, prev_detect, snapshot_detect]

theorem afterWrite_params (w : Transaction) (s : State) : (afterWrite w s).params = s.params := by
  simp [afterWrite]

/-- Settles O3: of all that a step can do, a write alone touches what the invariant speaks of. -/
theorem stepKeepsTheInvariant : Obligations.StepKeepsTheInvariant := by
  intro s t h hstep
  obtain ⟨-, ⟨-, rfl⟩ | ⟨w, rest, -, rfl⟩ | ⟨a, rfl⟩ | ⟨code, rfl, -⟩⟩ := step_next_cases hstep
  · exact ⟨h, rfl⟩
  · exact ⟨inv_afterWrite h w, afterWrite_params w s⟩
  · exact ⟨⟨h.rawCanonical, h.channelIndex, h.operatorIndex, h.detectorInSync⟩, rfl⟩
  · exact ⟨⟨h.rawCanonical, h.channelIndex, h.operatorIndex, h.detectorInSync⟩, rfl⟩

/-! ## Construction (R230, R231) -/

/-- R230: every field and every raw byte of the reset state is zero, so each field is the slice of its byte. -/
theorem mirrorsRaw_reset : State.reset.MirrorsRaw := by
  obtain ⟨-, hglobals, hchan, hoper, hraw, -⟩ := resetHoldsTheSpecifiedValues
  constructor <;> simp [hglobals, hchan, hoper, hraw]

/-- Settles O2: construction sets the indices and starts the detector in sync; the reset state is the zero case. -/
theorem constructionMeetsTheInvariants : Obligations.ConstructionMeetsTheInvariants := by
  have hinv : ∀ (pm : Params) (rv : ResetValues), Memory.wf rv.raw → (State.construct pm rv).Inv := fun pm rv hraw =>
    { rawCanonical := hraw
      channelIndex := fun c => by rw [chan_construct]
      operatorIndex := fun c o => by rw [oper_construct]
      detectorInSync := fun c => (detector_construct pm rv c).1 }
  exact ⟨hinv, hinv _ _ Memory.wf_nil, by decide, mirrorsRaw_reset⟩

/-! ## Decoding and encoding (R70, R88, R90) -/

/-- Settles O15: at the block by `decode_of_encode`, and in the transport by the command's decode. -/
theorem decodingAnEncodedInstructionGivesItBack : Obligations.DecodingAnEncodedInstructionGivesItBack := by
  intro i hwf
  have hdecode : decode (encode i) = i := decode_of_encode hwf rfl
  refine ⟨hdecode, fun rest => (decodeBytes_command i.port i.addr i.data rest).trans ?_⟩
  rw [← encode, hdecode]

/-- Settles O16: `wellFormed_decode` and `encode_decode`. -/
theorem encodingADecodedTransactionGivesItBack : Obligations.EncodingADecodedTransactionGivesItBack :=
  fun t => ⟨wellFormed_decode t, encode_decode t⟩

/-- Settles O14: each word is the one its instruction encodes to. -/
theorem writtenOutWordsDecode : Obligations.WrittenOutWordsDecode :=
  ⟨decode_of_encode rfl rfl, decode_of_encode rfl rfl, decode_of_encode rfl rfl, decode_of_encode rfl rfl,
    decode_of_encode rfl rfl, decode_of_encode rfl rfl, decode_of_encode rfl rfl,
    decodeBytes_command 0 0xB0 0x32 [0x66], decodeBytes_command 1 0xAE 0x3F []⟩

/-! ## What a step runs (R76, R197) -/

theorem step_of_write_pending {s : State} {w : Transaction} {rest : List HostOp} (h : s.pending = .write w :: rest) :
    step s = thenDetect (exec (decode w) { s with pending := rest }) := by
  rw [step_of_pending h, takeOp, State.popped, h, List.tail_cons]

/-- A table word that the decoder reads is placed as the next write. -/
theorem withFetchWord_of_decodes {nbits w : Nat} {i : Instr} (h : decodeTableWord nbits w = some i) (s : State) :
    ∃ t, decode t = i ∧ s.withFetchWord nbits w = s.present (.write t) := by
  obtain ⟨t, ht, hi⟩ := Option.map_eq_some_iff.mp h
  exact ⟨t, hi, by rw [State.withFetchWord, ht]⟩

/-- Settles O39: `step_of_write_pending` on the host's write, on an encoded instruction and on a placed table word. -/
theorem stepRunsTheDecodedInstruction : Obligations.StepRunsTheDecodedInstruction := by
  refine ⟨fun s w rest hp => step_of_write_pending hp, fun s i rest hwf hp => ?_, fun s nbits w i hi => ?_,
    fun _ => rfl, fun _ => rfl, fun s hf hp => ?_⟩
  · rw [step_of_write_pending hp, decode_of_encode hwf rfl]
  · obtain ⟨t, rfl, hplaced⟩ := withFetchWord_of_decodes hi s
    rw [hplaced]
    exact step_of_write_pending rfl
  · rw [step_of_idle hp, whenRunning_of_running hf]

/-! ## The outputs (R35, R36) -/

theorem afterWrite_dumps (w : Transaction) (s : State) : ∃ l, (afterWrite w s).dumps = s.dumps ++ l :=
  ⟨_, by rw [afterWrite, dumps_detect, effectOf_dumps, State.storeRaw_dumps, State.popped_dumps]⟩

/-- Settles O42: a write appends events and dumps, a read port one answer; nothing else touches an output. -/
theorem outputsOnlyGrow : Obligations.OutputsOnlyGrow := by
  intro s t hstep
  have same : ∀ {α : Type} (l : List α), ∃ l', l = l ++ l' := fun l => ⟨[], (List.append_nil l).symm⟩
  obtain ⟨-, ⟨-, rfl⟩ | ⟨w, rest, -, rfl⟩ | ⟨a, rfl⟩ | ⟨code, rfl, -⟩⟩ := step_next_cases hstep
  · exact ⟨same _, same _, same _⟩
  · refine ⟨⟨_, afterWrite_diag w s⟩, afterWrite_dumps w s, ?_⟩
    rw [afterWrite, detect_answers, effectOf_answers]
    exact same _
  · exact ⟨same _, same _, [a], rfl⟩
  · exact ⟨same _, same _, same _⟩

/-! ## What a write reads (R24, R33, R35) -/

theorem channels_effectOf_congr {s s' : State} (i : Instr) (hparams : s.params = s'.params)
    (hchannels : s.channels = s'.channels) (hspecial : s.globals.special = s'.globals.special) :
    (effectOf i s).channels = (effectOf i s').channels := by
  refine State.channels_ext fun c => ?_
  have hchan : s.chan c = s'.chan c := by rw [State.chan, hchannels, State.chan]
  rw [chan_effectOf, chan_effectOf, hparams, hspecial, hchan]

theorem operators_effectOf_congr {s s' : State} (i : Instr) (hparams : s.params = s'.params)
    (hoperators : s.operators = s'.operators) (hspecial : s.globals.special = s'.globals.special) :
    (effectOf i s).operators = (effectOf i s').operators := by
  refine State.operators_ext fun c o => ?_
  have hoper : s.oper c o = s'.oper c o := by rw [State.oper, hoperators, State.oper]
  rw [oper_effectOf, oper_effectOf, hparams, hspecial, hoper]

/-- R104: a write assigns a global field from its data byte or leaves it, whatever the global fields were. -/
theorem keptOrSame_globalsAfter (i : Instr) (pm : Params) {s s' t t' : State}
    (ht : t.globals = globalsAfter i pm s.globals) (ht' : t'.globals = globalsAfter i pm s'.globals) :
    KeptOrSame Globals.lfoEnable s s' t t' ∧ KeptOrSame Globals.lfoFreq s s' t t' ∧
    KeptOrSame Globals.timerB s s' t t' ∧ KeptOrSame Globals.loadA s s' t t' ∧ KeptOrSame Globals.loadB s s' t t' ∧
    KeptOrSame Globals.enableA s s' t t' ∧ KeptOrSame Globals.enableB s s' t t' ∧
    KeptOrSame Globals.resetA s s' t t' ∧ KeptOrSame Globals.resetB s s' t t' ∧
    KeptOrSame Globals.dacEnable s s' t t' := by
  simp only [KeptOrSame, ht, ht']
  cases i
  case wrMode v =>
    cases hmode : modeOf v with
    | some special => simp [globalsAfter_wrMode_of_some hmode, withTimerBits]
    | none =>
      simp only [globalsAfter_wrMode_of_none hmode]
      cases pm.invalidModeUpdatesTimerBits <;> simp [withTimerBits]
  all_goals simp [globalsAfter]

/-- Settles O49: what a write leaves in channels and operators is read off the parts the two states share, and its
events off the instruction alone. -/
theorem writesReadNoRawTimerOrDiagnosticState : Obligations.WritesReadNoRawTimerOrDiagnosticState := by
  intro i s s' t t' hparams hchannels hoperators hspecial ht ht'
  obtain ⟨-, rfl⟩ := exec_next_iff.mp ht
  obtain ⟨-, rfl⟩ := exec_next_iff.mp ht'
  have hglobals := effectOf_globals i (s.storeRaw i.port i.addr i.data)
  have hglobals' := effectOf_globals i (s'.storeRaw i.port i.addr i.data)
  rw [State.storeRaw_params, State.storeRaw_globals] at hglobals hglobals'
  rw [← hparams] at hglobals'
  obtain ⟨hlfoEnable, hlfoFreq, htimerB, hloadA, hloadB, henableA, henableB, hresetA, hresetB, hdac⟩ :=
    keptOrSame_globalsAfter i s.params hglobals hglobals'
  refine ⟨channels_effectOf_congr i hparams hchannels hspecial, operators_effectOf_congr i hparams hoperators hspecial,
    ?_, hlfoEnable, hlfoFreq, htimerB, hloadA, hloadB, henableA, henableB, hresetA, hresetB, hdac,
    eventsOf i, effectOf_diag i _, effectOf_diag i _⟩
  rw [hglobals, hglobals', globalsAfter_special, globalsAfter_special, hspecial]

/-! ## Runs (R56, R200, R215)

No operation reads or writes what is still pending, so a run is its operations taken one after the other from the state
without them (`runOps_cons`), and that is how runs compose. -/

/-- An answer with its next state, if it has one, rewritten by `f`. -/
def Result.mapNext (f : State → State) : Result → Result
  | .next s => .next (f s)
  | .fault r => .fault r
  | .refused r => .refused r

/-- A run that goes on from an answer with more operations. -/
def Result.thenRun (r : Result) (ops : List HostOp) : Result :=
  match r with
  | .next s => runOps ops s
  | .fault f => .fault f
  | .refused f => .refused f

theorem whenRunning_withOps (s after : State) (ops : List HostOp) :
    whenRunning (s.withOps ops) (after.withOps ops) = Result.mapNext (·.withOps ops) (whenRunning s after) := by
  cases hf : s.fault with
  | none => rw [whenRunning_of_running hf, whenRunning_of_running (s := s.withOps ops) hf, Result.mapNext]
  | some code => rw [whenRunning_of_faulted hf, whenRunning_of_faulted (s := s.withOps ops) hf, Result.mapNext]

theorem effectOf_withOps (i : Instr) (s : State) (ops : List HostOp) :
    effectOf i (s.withOps ops) = (effectOf i s).withOps ops := by
  have hglobals : (effectOf i (s.withOps ops)).globals = (effectOf i s).globals := by
    rw [effectOf_globals, effectOf_globals]; rfl
  have hdiag : (effectOf i (s.withOps ops)).diag = (effectOf i s).diag := by
    rw [effectOf_diag, effectOf_diag]; rfl
  have hchannels := channels_effectOf_congr i (s := s.withOps ops) (s' := s) rfl rfl rfl
  have hoperators := operators_effectOf_congr i (s := s.withOps ops) (s' := s) rfl rfl rfl
  rw [effectOf_frame i (s.withOps ops), hglobals, hchannels, hoperators, hdiag, effectOf_frame i s]
  rfl

theorem detect_withOps (s : State) (ops : List HostOp) : detect (s.withOps ops) = (detect s).withOps ops :=
  List.foldl_hom (State.withOps · ops) fun _ _ => rfl

theorem exec_withOps (i : Instr) (s : State) (ops : List HostOp) :
    exec i (s.withOps ops) = Result.mapNext (·.withOps ops) (exec i s) := by
  rw [exec_eq, exec_eq, ← whenRunning_withOps, ← effectOf_withOps]
  rfl

theorem thenDetect_mapNext_withOps (r : Result) (ops : List HostOp) :
    thenDetect (Result.mapNext (·.withOps ops) r) = Result.mapNext (·.withOps ops) (thenDetect r) := by
  cases r with
  | next s => exact congrArg Host.Outcome.next (detect_withOps s ops)
  | fault f => rfl
  | refused f => rfl

/-- R56: an operation does the same whatever is to be taken after it. -/
theorem takeOp_withOps (op : HostOp) (s : State) (ops : List HostOp) :
    takeOp op (s.withOps ops) = Result.mapNext (·.withOps ops) (takeOp op s) := by
  cases op with
  | write w => rw [takeOp, exec_withOps, thenDetect_mapNext_withOps, takeOp]
  | channel i =>
    rw [takeOp, queryChannel, takeOp, queryChannel, ← whenRunning_withOps]
    split <;> rfl
  | operator i j =>
    rw [takeOp, queryOperator, takeOp, queryOperator, ← whenRunning_withOps]
    split
    · split <;> rfl
    · rfl
  | rawRead p a => exact whenRunning_withOps s (s.answer (.raw (s.rawByte p a))) ops

/-- R56: a run takes its first operation, and goes on from there with the others. -/
theorem runOps_cons (op : HostOp) (ops : List HostOp) (s : State) :
    runOps (op :: ops) s = Result.thenRun (takeOp op s) ops := by
  have hstep : core.step (s.withOps (op :: ops)) = Result.mapNext (·.withOps ops) (takeOp op s) :=
    (step_of_pending (s := s.withOps (op :: ops)) rfl).trans (takeOp_withOps op s ops)
  simp only [runOps, List.length_cons, Host.Core.run, hstep]
  cases takeOp op s <;> rfl

/-- R56, R215: the run of two sequences is the run of the second from the end of the first, if the first has one. -/
theorem runOps_append (xs ys : List HostOp) (s : State) :
    runOps (xs ++ ys) s = Result.thenRun (runOps xs s) ys := by
  induction xs generalizing s with
  | nil => rfl
  | cons op xs ih =>
    rw [List.cons_append, runOps_cons, runOps_cons]
    cases takeOp op s with
    | next t => exact ih t
    | fault f => rfl
    | refused f => rfl

theorem takeOp_write_of_running {s : State} (hf : s.fault = none) (w : Transaction) :
    takeOp (.write w) s =
      .next (detect (effectOf (decode w) (s.storeRaw (decode w).port (decode w).addr (decode w).data))) := by
  rw [takeOp, exec_of_running hf, thenDetect]

theorem pending_of_takeOp {op : HostOp} {s t : State} (h : takeOp op s = .next t) : t.pending = s.pending := by
  cases op with
  | write w =>
    cases hf : s.fault with
    | none =>
      rw [takeOp_write_of_running hf] at h
      cases h
      rw [detect_pending, effectOf_pending, State.storeRaw_pending]
    | some code =>
      rw [takeOp_of_faulted hf] at h
      cases h
  | channel i =>
    obtain ⟨-, rfl⟩ := whenRunning_next_iff.mp h
    split <;> rfl
  | operator i j =>
    obtain ⟨-, rfl⟩ := whenRunning_next_iff.mp h
    split
    · split <;> rfl
    · rfl
  | rawRead p a =>
    obtain ⟨-, rfl⟩ := whenRunning_next_iff.mp h
    rfl

/-- R56: a run takes its own operations and leaves pending what was pending before it. -/
theorem pending_of_runOps {ops : List HostOp} {s t : State} (h : runOps ops s = .next t) : t.pending = s.pending := by
  induction ops generalizing s with
  | nil =>
    cases h
    rfl
  | cons op ops ih =>
    rw [runOps_cons] at h
    cases hop : takeOp op s with
    | next u =>
      rw [hop] at h
      exact (ih h).trans (pending_of_takeOp hop)
    | fault f => rw [hop] at h; cases h
    | refused f => rw [hop] at h; cases h

theorem runSucceeds_writes (ws : List Transaction) {s : State} (hf : s.fault = none) :
    RunSucceeds (ws.map HostOp.write) s := by
  induction ws generalizing s with
  | nil => exact ⟨s, rfl, hf⟩
  | cons w ws ih =>
    obtain ⟨t, ht, htf⟩ := ih
      (s := detect (effectOf (decode w) (s.storeRaw (decode w).port (decode w).addr (decode w).data)))
      (by simpa using hf)
    refine ⟨t, ?_, htf⟩
    rw [List.map_cons, runOps_cons, takeOp_write_of_running hf]
    exact ht

/-- Settles O54: `runSucceeds_writes`, an induction on the writes, and `runOps_append` at each end the first run can
have. -/
theorem runsOfWritesSucceedAndCompose : Obligations.RunsOfWritesSucceedAndCompose := by
  refine ⟨fun ws s hf => runSucceeds_writes ws hf, fun xs ys s hp => ⟨fun t ht => ⟨?_, ?_⟩, fun f hfault => ?_⟩⟩
  · rw [pending_of_runOps ht, hp]
  · rw [runOps_append, ht, Result.thenRun]
  · rw [runOps_append, hfault, Result.thenRun]

end Sys2Proof.Machine
